-- ==== Sys2Proof/Word.lean ====
section
/-! DEFINITION. The words of the PFC: 32-bit registers and addresses, 8-bit bytes, 16-bit samples, 64-bit command
words (spec/00_scope.md R6, R7). All are bit vectors, because the spec adds, shifts and masks them. -/

namespace Sys2Proof

/-- A register value or a byte address: `RLEN` = `ALEN` = 32 (R6). -/
abbrev Word := BitVec 32

/-- One byte of the data memory (20_memory.md R60). -/
abbrev Byte := BitVec 8

/-- One 16-bit sample of the stacked-pack engine (43_transcoders.md R174). -/
abbrev Sample := BitVec 16

/-- One command word: `CLEN` = 64 (R6, 30_encoding.md R90). -/
abbrev CommandWord := BitVec 64

/-- A plane index `p` in 0, 1, 2 (10_state.md R40). -/
abbrev Plane := Fin 3

end Sys2Proof
end

