-- ==== Sys2Proof/Syntax.lean ====
section
/-! DEFINITION. The command set PFC-CMD 1.0 as syntax: the 14 commands (spec/30_encoding.md R93), the 40 register names
(10_state.md R22), and the assembler's lines with the six pseudo-instructions (30_encoding.md R100, R101). -/

namespace Sys2Proof

/-- The commands of the opcode map (R93), each with the operands its format uses (R91). Every value of an operand's type
is an operand value the encoding admits (R92), so each value of this type is a legal command. -/
inductive Instr where
  /-- NOP (R120). -/
  | nop
  /-- SETR reg, imm (R121). -/
  | setr (ra : BitVec 8) (imm : Word)
  /-- RDR reg (R122). -/
  | rdr (ra : BitVec 8)
  /-- OPEN (R201). -/
  | openSession
  /-- GETGEOM (R209). -/
  | getgeom
  /-- GETFRAME n (R210). -/
  | getframe (n : Word)
  /-- CLOSE (R214). -/
  | close
  /-- MAP (R134). -/
  | map
  /-- RESOLVE (R153). -/
  | resolve
  /-- SELECT (R159). -/
  | select
  /-- BLIT (R172). -/
  | blit
  /-- STACK (R176). -/
  | stack
  /-- BGRPACK (R183). -/
  | bgrpack
  /-- CONVERT (R185). -/
  | convert
deriving DecidableEq, Repr

/-- The 14 assigned opcodes by name (R93). -/
inductive Opcode where
  | nop | setr | rdr | openSession | getgeom | getframe | close
  | map | resolve | select | blit | stack | bgrpack | convert
deriving DecidableEq, Repr

/-- The opcode of a command (R93). -/
def Instr.opcode : Instr → Opcode
  | .nop => .nop
  | .setr _ _ => .setr
  | .rdr _ => .rdr
  | .openSession => .openSession
  | .getgeom => .getgeom
  | .getframe _ => .getframe
  | .close => .close
  | .map => .map
  | .resolve => .resolve
  | .select => .select
  | .blit => .blit
  | .stack => .stack
  | .bgrpack => .bgrpack
  | .convert => .convert

/-- The 40 implemented registers, in the order of the table of 10_state.md R22. -/
inductive Reg where
  | ctrl | scriptRef | status | diag
  | pFmt | pBps | pPlanes | pSs | pPacked | pWidth | pHeight | pFrames
  | pFpsnumLo | pFpsnumHi | pFpsdenLo | pFpsdenHi
  | cFmt | pmode | xsel | cWidth | cHeight | cFrames | cFpsnum | cFpsden
  | ctxH | nodeH | frameH | dstH
  | srcBase0 | srcStride0 | srcBase1 | srcStride1 | srcBase2 | srcStride2
  | dstBase0 | dstStride0 | dstBase1 | dstStride1 | dstBase2 | dstStride2
deriving DecidableEq, Repr

/-- The `reg` operand of an assembler line: a register name or a number (R100). -/
inductive AsmReg where
  | name (r : Reg)
  | number (n : Nat)
deriving DecidableEq, Repr

/-- One assembler line (R100) or pseudo-instruction (R101). An `imm` is an integer, because a negative decimal number is
allowed; the two frame-rate operands of SETRATE are up to 64 bits and `p` is a plane number. -/
inductive Asm where
  | nop
  | setr (reg : AsmReg) (imm : Int)
  | rdr (reg : AsmReg)
  | openSession
  | getgeom
  | getframe (imm : Int)
  | close
  | map
  | resolve
  | select
  | blit
  | stack
  | bgrpack
  | convert
  | setdesc (fmt bps planes ss packed w h : Int)
  | setrate (frames : Int) (num den : Nat)
  | setsrc (p : Nat) (base stride : Int)
  | setdst (p : Nat) (base stride : Int)
  | prep
  | opensrc (ref ctrl : Int)
deriving DecidableEq, Repr

end Sys2Proof
end

