-- ==== Sys2Proof/WellFormed.lean ====
section
/-! DEFINITION. Which terms of the syntax are well formed. The operands of a command have the widths of their fields in
their types (spec/30_encoding.md R90, R92), so every command is well formed: an unimplemented register index is a legal
word that the command answers with `E_REG` (40_host_register_commands.md R121, R122). The operands of an assembler line
are numbers, and the checks stand here (30_encoding.md R100, R101). -/

namespace Sys2Proof

/-- Every command is well formed: the field widths stand in the types of its operands (R91, R92). -/
def Instr.wellFormed : Instr → Bool
  | .nop => true
  | .setr _ _ => true
  | .rdr _ => true
  | .openSession => true
  | .getgeom => true
  | .getframe _ => true
  | .close => true
  | .map => true
  | .resolve => true
  | .select => true
  | .blit => true
  | .stack => true
  | .bgrpack => true
  | .convert => true

/-- An `imm` "must fit 32 bits" (R100). DESIGN CHOICE, log entry 11: a negative number fits when it is at least -2^31. -/
def immFits (v : Int) : Bool := decide (-2147483648 ≤ v) && decide (v < 4294967296)

/-- A register number is `0x00` to `0xFF` (R100). -/
def AsmReg.wellFormed : AsmReg → Bool
  | .name _ => true
  | .number n => decide (n < 256)

/-- The frame-rate operands of SETRATE are "up to 64 bits" (R101). -/
def rateFits (v : Nat) : Bool := decide (v < 18446744073709551616)

/-- The plane number of SETSRC and SETDST is "in 0..2" (R101). -/
def planeFits (p : Nat) : Bool := decide (p < 3)

/-- Which assembler lines are well formed (R100, R101). -/
def Asm.wellFormed : Asm → Bool
  | .nop => true
  | .setr reg imm => reg.wellFormed && immFits imm
  | .rdr reg => reg.wellFormed
  | .openSession => true
  | .getgeom => true
  | .getframe imm => immFits imm
  | .close => true
  | .map => true
  | .resolve => true
  | .select => true
  | .blit => true
  | .stack => true
  | .bgrpack => true
  | .convert => true
  | .setdesc fmt bps planes ss packed w h =>
      immFits fmt && immFits bps && immFits planes && immFits ss && immFits packed && immFits w && immFits h
  | .setrate frames num den => immFits frames && rateFits num && rateFits den
  | .setsrc p base stride => planeFits p && immFits base && immFits stride
  | .setdst p base stride => planeFits p && immFits base && immFits stride
  | .prep => true
  | .opensrc ref ctrl => immFits ref && immFits ctrl

end Sys2Proof
end

