-- ==== Sys2Proof/Decode.lean ====
section
/-! DEFINITION. Decoding and encoding of command words (spec/30_encoding.md R90 to R95). `decode` is total: a 64-bit word
is one command or is rejected with the name of the first thing wrong with it. -/

namespace Sys2Proof

/-- The four formats (R91). -/
inductive Format where
  | n | r | ri | i
deriving DecidableEq, Repr

/-- Why a word is illegal (R94). -/
inductive Illegal where
  /-- `OP` is not one of the 14 assigned values. -/
  | unassignedOpcode
  /-- `RSV` is not 0. -/
  | rsvNotZero
  /-- The format does not use `RA` and it is not 0. -/
  | raNotZero
  /-- The format does not use `IMM` and it is not 0. -/
  | immNotZero
deriving DecidableEq, Repr

/-- The four fields of a command word (R90). -/
structure Fields where
  op : BitVec 8
  ra : BitVec 8
  rsv : BitVec 16
  imm : Word
deriving DecidableEq, Repr

/-- `OP = w[63:56]`, `RA = w[55:48]`, `RSV = w[47:32]`, `IMM = w[31:0]` (R94). -/
def fieldsOf (w : CommandWord) : Fields :=
  { op := w.extractLsb' 56 8, ra := w.extractLsb' 48 8, rsv := w.extractLsb' 32 16, imm := w.extractLsb' 0 32 }

/-- The word of four fields: `OP * 2^56 + RA * 2^48 + RSV * 2^32 + IMM` (R90), as a concatenation. -/
def joinFields (f : Fields) : CommandWord := f.op ++ f.ra ++ f.rsv ++ f.imm

/-- The opcode map (R93): the number of each opcode. -/
def Opcode.number : Opcode → BitVec 8
  | .nop => 0x00
  | .setr => 0x01
  | .rdr => 0x02
  | .openSession => 0x10
  | .getgeom => 0x11
  | .getframe => 0x12
  | .close => 0x13
  | .map => 0x20
  | .resolve => 0x21
  | .select => 0x22
  | .blit => 0x30
  | .stack => 0x31
  | .bgrpack => 0x32
  | .convert => 0x33

/-- The opcode map (R93): the format of each opcode. -/
def Opcode.format : Opcode → Format
  | .nop => .n
  | .setr => .ri
  | .rdr => .r
  | .openSession => .n
  | .getgeom => .n
  | .getframe => .i
  | .close => .n
  | .map => .n
  | .resolve => .n
  | .select => .n
  | .blit => .n
  | .stack => .n
  | .bgrpack => .n
  | .convert => .n

/-- Every assigned opcode (R93). -/
def allOpcodes : List Opcode :=
  [.nop, .setr, .rdr, .openSession, .getgeom, .getframe, .close, .map, .resolve, .select, .blit, .stack, .bgrpack,
    .convert]

/-- The opcode a number is assigned to, if it is assigned (R93, R94). -/
def opcodeOf (op : BitVec 8) : Option Opcode := allOpcodes.find? (fun o => o.number == op)

/-- Whether the format uses `RA` (R91). -/
def Format.usesRa : Format → Bool
  | .n => false
  | .r => true
  | .ri => true
  | .i => false

/-- Whether the format uses `IMM` (R91). -/
def Format.usesImm : Format → Bool
  | .n => false
  | .r => false
  | .ri => true
  | .i => true

/-- The `mask` column of R91: the bits of a word that must match. -/
def Format.mask : Format → CommandWord
  | .n => 0xFFFFFFFFFFFFFFFF
  | .r => 0xFF00FFFFFFFFFFFF
  | .ri => 0xFF00FFFF00000000
  | .i => 0xFFFFFFFF00000000

/-- The `match` value of an opcode, `OP * 2^56` (R91). -/
def Opcode.matchWord (o : Opcode) : CommandWord := BitVec.ofNat 64 (o.number.toNat * 2 ^ 56)

/-- The command of an opcode with the operands its format uses (R94). -/
def buildInstr (ra : BitVec 8) (imm : Word) : Opcode → Instr
  | .nop => .nop
  | .setr => .setr ra imm
  | .rdr => .rdr ra
  | .openSession => .openSession
  | .getgeom => .getgeom
  | .getframe => .getframe imm
  | .close => .close
  | .map => .map
  | .resolve => .resolve
  | .select => .select
  | .blit => .blit
  | .stack => .stack
  | .bgrpack => .bgrpack
  | .convert => .convert

/-- The command of four fields, or what is wrong with them (R94). -/
def decodeFields (f : Fields) : Except Illegal Instr :=
  match opcodeOf f.op with
  | none => .error .unassignedOpcode
  | some o =>
    if f.rsv ≠ 0 then .error .rsvNotZero
    else if o.format.usesRa = false ∧ f.ra ≠ 0 then .error .raNotZero
    else if o.format.usesImm = false ∧ f.imm ≠ 0 then .error .immNotZero
    else .ok (buildInstr f.ra f.imm o)

/-- Decoding a command word (R94): the command, or the name of what makes the word illegal (R95). -/
def decode (w : CommandWord) : Except Illegal Instr := decodeFields (fieldsOf w)

/-- The `RA` field of a command: the register index where its format uses it, else 0 (R91). -/
def Instr.raField : Instr → BitVec 8
  | .setr ra _ => ra
  | .rdr ra => ra
  | .nop | .openSession | .getgeom | .getframe _ | .close | .map | .resolve | .select | .blit | .stack | .bgrpack
  | .convert => 0

/-- The `IMM` field of a command: the immediate where its format uses it, else 0 (R91). -/
def Instr.immField : Instr → Word
  | .setr _ imm => imm
  | .getframe n => n
  | .nop | .rdr _ | .openSession | .getgeom | .close | .map | .resolve | .select | .blit | .stack | .bgrpack
  | .convert => 0

/-- The fields of a command's word (R90, R91): every must-be-zero field is 0. -/
def encodeFields (i : Instr) : Fields :=
  { op := i.opcode.number, ra := i.raField, rsv := 0, imm := i.immField }

/-- The word of a command (R90). -/
def encode (i : Instr) : CommandWord := joinFields (encodeFields i)

/-- The command whose bits are `w`, numbered as spec/opcode_table.json numbers them; bits from `nbits` on are 0. A command
word travels whole and has no byte order (20_memory.md R64), so the bits are the word. -/
def decodeTableWord (nbits w : Nat) : Option Instr := (decode (BitVec.ofNat 64 (w % 2 ^ nbits))).toOption

end Sys2Proof
end

