-- ==== Sys2Proof/Config.lean ====
section
/-! DEFINITION. What an implementation or its platform fixes, and the free values: the types of the environment's calls
(spec/10_state.md R46), the parameters of 00_scope.md R6, and the constants without a body that stand for values the spec
leaves open (93_implementation_defined.md U4, U8, U11). -/

namespace Sys2Proof

/-- A plane pointer with its stride: the result of `getPlaneData`, and a part of that of `allocFrame` (R46). -/
structure PlaneRef where
  base : Word
  stride : Word
deriving DecidableEq, Repr, Inhabited

/-- The result of `evaluate`: a context handle, or a diagnostic token (R46). -/
inductive EvalResult where
  | ok (ctx : Word)
  | err (diag : Word)
deriving DecidableEq, Repr, Inhabited

/-- The record `getFormatDescriptor` answers with (R46): the frame rate is 64 bits wide, the rest 32. -/
structure Descriptor where
  fmt : Word
  bps : Word
  planes : Word
  ss : Word
  packed : Word
  width : Word
  height : Word
  frames : Word
  fpsnum : BitVec 64
  fpsden : BitVec 64
deriving DecidableEq, Repr, Inhabited

/-- What a successful `allocFrame` answers: the buffer's handle and three (base, stride) pairs (R46). -/
structure Allocation where
  dst : Word
  plane0 : PlaneRef
  plane1 : PlaneRef
  plane2 : PlaneRef
deriving DecidableEq, Repr, Inhabited

/-- One environment call with its arguments and its result: an event of the trace (R46, R47). -/
inductive EnvEvent where
  | initializeEngine (result : Bool)
  | evaluate (scriptRef : Word) (inline : Bool) (result : EvalResult)
  | getOutputNode (ctx : Word) (index : BitVec 8) (result : Option Word)
  | getFormatDescriptor (node : Word) (result : Descriptor)
  | getFrame (node : Word) (n : Word) (result : Option Word)
  | getPlaneData (frame : Word) (p : Plane) (result : PlaneRef)
  | releaseFrame (frame : Word)
  | releaseNode (node : Word)
  | releaseContext (ctx : Word)
  | engineRelease
  | allocFrame (cfmt : Word) (width : Word) (height : Word) (result : Option Allocation)
deriving DecidableEq, Repr

/-- The environment's answers as plain data: for each call of R46 that answers something, the answers it will give, first
one first; and, where there is one, the number of the call (counted from 0 since reset) that it never answers (R268, U13).
When a queue is empty the answer is the free oracle's below, so every call is answered by some value of its result type
(U11). Log entries 5 and 6. -/
structure Environment where
  initializeEngine : List Bool
  evaluate : List EvalResult
  getOutputNode : List (Option Word)
  getFormatDescriptor : List Descriptor
  getFrame : List (Option Word)
  getPlaneData : List PlaneRef
  allocFrame : List (Option Allocation)
  stallAt : Option Nat
deriving DecidableEq, Repr

/-- The access kinds of the memory map: `R` and `W` (20_memory.md R62). -/
inductive AccessKind where
  | r | w
deriving DecidableEq, Repr

/-- A range of byte addresses that the platform refuses for reads, for writes or for both. Lists of such ranges are all the
predicates `Admit(addr, kind)` there are on 2^32 addresses (R62). -/
structure Region where
  base : Nat
  size : Nat
  refusesRead : Bool
  refusesWrite : Bool
deriving DecidableEq, Repr

/-- The platform's parameters of R6 that a rule depends on: `BGR32_FLIP` and `Admit`. No step changes them. -/
structure Platform where
  bgr32Flip : Bool
  refused : List Region
deriving DecidableEq, Repr

/-- `BGR32_FLIP`: default 1 (R6; U1). -/
def Config.bgr32FlipDefault : Bool := true

/-- `LANE` = 16 (R6): samples per lane of the stacked-pack engine. No meaning depends on it (43_transcoders.md R181). -/
def Config.lane : Nat := 16

/-- What a byte that nothing wrote reads as. DESIGN CHOICE, unsafe, log entry 4: 10_state.md R49 says memory holds after
reset "whatever the platform holds"; 0 is the convention of 95_test_vectors.md. -/
def Config.unlistedByte : Byte := 0

/-- The free bytes of U4 and U8: batch number and address give a byte that nothing constrains. Log entries 7, 8. -/
opaque Config.freeByte : Nat → Nat → Byte

/-- The free oracle of U11 for `initializeEngine()`, given the trace so far. Log entry 5. -/
opaque Config.oracleInitializeEngine : List EnvEvent → Bool

/-- The free oracle of U11 for `evaluate(script_ref, inline)`. -/
opaque Config.oracleEvaluate : List EnvEvent → Word → Bool → EvalResult

/-- The free oracle of U11 for `getOutputNode(ctx, index)`. -/
opaque Config.oracleGetOutputNode : List EnvEvent → Word → BitVec 8 → Option Word

/-- The free oracle of U11 for `getFormatDescriptor(node)`. -/
opaque Config.oracleGetFormatDescriptor : List EnvEvent → Word → Descriptor

/-- The free oracle of U11 for `getFrame(node, n)`. -/
opaque Config.oracleGetFrame : List EnvEvent → Word → Word → Option Word

/-- The free oracle of U11 for `getPlaneData(frame, p)`. -/
opaque Config.oracleGetPlaneData : List EnvEvent → Word → Plane → PlaneRef

/-- The free oracle of U11 for `allocFrame(cfmt, width, height)`. -/
opaque Config.oracleAllocFrame : List EnvEvent → Word → Word → Word → Option Allocation

end Sys2Proof
end

