-- ==== Sys2Proof/Machine/State.lean ====
section
/-! DEFINITION. The state of the machine as plain data (spec/10_state.md R20): the register file, the trace, the response
list and the data memory; beside them, the MODEL's own fields for what R20 calls parameters of the step (the command list,
the environment, the platform) and the counter of the free bytes. Faults, refusals and the state after reset. -/

namespace Sys2Proof.Machine

/-- The register file: 40 registers of 32 bits (10_state.md R22), one field each. The session flags PHASE, HAVE_* and ERR
are fields of STATUS and are held there alone (R25, R42). -/
structure RegFile where
  /-- CTRL, index 0x00 (R23). -/
  ctrl : Word
  /-- SCRIPT_REF, index 0x01 (R24). -/
  scriptRef : Word
  /-- STATUS, index 0x02 (R25): PHASE, HAVE_*, ERR. -/
  status : Word
  /-- DIAG, index 0x03 (R26). -/
  diag : Word
  /-- P_FMT, 0x10 (R27). -/
  pFmt : Word
  /-- P_BPS, 0x11 (R28). -/
  pBps : Word
  /-- P_PLANES, 0x12 (R29). -/
  pPlanes : Word
  /-- P_SS, 0x13 (R30). -/
  pSs : Word
  /-- P_PACKED, 0x14 (R31). -/
  pPacked : Word
  /-- P_WIDTH, 0x15 (R32). -/
  pWidth : Word
  /-- P_HEIGHT, 0x16 (R32). -/
  pHeight : Word
  /-- P_FRAMES, 0x17 (R33), read as signed. -/
  pFrames : Word
  /-- P_FPSNUM_LO, 0x18 (R34). -/
  pFpsnumLo : Word
  /-- P_FPSNUM_HI, 0x19 (R34). -/
  pFpsnumHi : Word
  /-- P_FPSDEN_LO, 0x1A (R34). -/
  pFpsdenLo : Word
  /-- P_FPSDEN_HI, 0x1B (R34). -/
  pFpsdenHi : Word
  /-- C_FMT, 0x20 (R35). -/
  cFmt : Word
  /-- PMODE, 0x21 (R36). -/
  pmode : Word
  /-- XSEL, 0x22 (R37). -/
  xsel : Word
  /-- C_WIDTH, 0x23 (R38). -/
  cWidth : Word
  /-- C_HEIGHT, 0x24 (R38). -/
  cHeight : Word
  /-- C_FRAMES, 0x25 (R38). -/
  cFrames : Word
  /-- C_FPSNUM, 0x26 (R38). -/
  cFpsnum : Word
  /-- C_FPSDEN, 0x27 (R38). -/
  cFpsden : Word
  /-- CTX_H, 0x28. -/
  ctxH : Word
  /-- NODE_H, 0x29. -/
  nodeH : Word
  /-- FRAME_H, 0x2A. -/
  frameH : Word
  /-- DST_H, 0x2B. -/
  dstH : Word
  /-- SRC_BASE0, 0x30. -/
  srcBase0 : Word
  /-- SRC_STRIDE0, 0x31. -/
  srcStride0 : Word
  /-- SRC_BASE1, 0x32. -/
  srcBase1 : Word
  /-- SRC_STRIDE1, 0x33. -/
  srcStride1 : Word
  /-- SRC_BASE2, 0x34. -/
  srcBase2 : Word
  /-- SRC_STRIDE2, 0x35. -/
  srcStride2 : Word
  /-- DST_BASE0, 0x38. -/
  dstBase0 : Word
  /-- DST_STRIDE0, 0x39. -/
  dstStride0 : Word
  /-- DST_BASE1, 0x3A. -/
  dstBase1 : Word
  /-- DST_STRIDE1, 0x3B. -/
  dstStride1 : Word
  /-- DST_BASE2, 0x3C. -/
  dstBase2 : Word
  /-- DST_STRIDE2, 0x3D. -/
  dstStride2 : Word
deriving DecidableEq, Repr

/-- Every register 0 (R49). -/
def RegFile.zero : RegFile :=
  { ctrl := 0, scriptRef := 0, status := 0, diag := 0, pFmt := 0, pBps := 0,
    pPlanes := 0, pSs := 0, pPacked := 0, pWidth := 0, pHeight := 0, pFrames := 0,
    pFpsnumLo := 0, pFpsnumHi := 0, pFpsdenLo := 0, pFpsdenHi := 0, cFmt := 0, pmode := 0,
    xsel := 0, cWidth := 0, cHeight := 0, cFrames := 0, cFpsnum := 0, cFpsden := 0,
    ctxH := 0, nodeH := 0, frameH := 0, dstH := 0, srcBase0 := 0, srcStride0 := 0,
    srcBase1 := 0, srcStride1 := 0, srcBase2 := 0, srcStride2 := 0, dstBase0 := 0, dstStride0 := 0,
    dstBase1 := 0, dstStride1 := 0, dstBase2 := 0, dstStride2 := 0 }

/-- The data memory (20_memory.md R60): the listed bytes by address, in one canonical form. -/
abbrev Memory := List Host.Cell

/-- The canonical form: addresses of the 2^32 address space strictly rising, and no entry equal to what an unlisted
address reads as. -/
abbrev Memory.wf (m : Memory) : Prop :=
  m.Pairwise (fun a b => a.1 < b.1) ∧ ∀ c ∈ m, c.1 < 2 ^ 32 ∧ c.2 ≠ Config.unlistedByte

/-- The errors of 60_exceptions.md R230, code 0 (`OK`) apart. -/
inductive ErrCode where
  | engineInit | scriptEval | noOutputNode | length | variableFormat | variableFps | fpsRange | unsupportedFormat
  | fetch | alloc | mem | state | illegalCmd | param | reg
deriving DecidableEq, Repr

/-- The states of the session state machine (10_state.md R43). -/
inductive Phase where
  | uninit | validated | ready | fetching | converting | done | failed
deriving DecidableEq, Repr

/-- The PackingMode (10_state.md R36). -/
inductive PackingMode where
  | native | doubledWidth | stacked
deriving DecidableEq, Repr

/-- The three transcoders (10_state.md R37). -/
inductive Transcoder where
  | blit | stack | bgrpack
deriving DecidableEq, Repr

/-- One response record (30_encoding.md R98): an 8-bit code and a list of 32-bit words. -/
structure Response where
  code : BitVec 8
  data : List Word
deriving DecidableEq, Repr

/-- The state. `regs`, `trace` and `responses` are the PFC's (R20); `mem` is the platform's memory (R20, 20_memory.md R60);
the rest are the model's own fields (log entries 1, 2, 5, 8). -/
structure State where
  /-- The 40 registers (R22). -/
  regs : RegFile
  /-- Every environment call since reset, oldest first (R47). -/
  trace : List EnvEvent
  /-- Every response since reset, oldest first (R48). -/
  responses : List Response
  /-- The data memory (20_memory.md R60). -/
  mem : Memory
  /-- The MODEL's own: the host's finite list of command words (00_scope.md R11, 10_state.md R21). -/
  commands : List CommandWord
  /-- The MODEL's own: the position in that list (R21). -/
  index : Nat
  /-- The MODEL's own: the answers of the environment (R46). -/
  env : Environment
  /-- The MODEL's own: the parameters `Admit` and `BGR32_FLIP` (00_scope.md R6). -/
  platform : Platform
  /-- The MODEL's own: the number of the next batch of free bytes (U4, U8). -/
  freeIndex : Nat
deriving DecidableEq, Repr

/-- Why the machine stops. -/
inductive Fault where
  /-- Raised by OPEN, GETFRAME and CLOSE when one of their environment calls is the one the environment never answers: the
  run does not continue (70_reset_and_hazards.md R268, U13 `stuck`). Safe: the device waits for ever, and no later command
  runs there either. Log entry 6. -/
  | envNeverAnswers
deriving DecidableEq, Repr

/-- Why an instruction has no meaning. -/
inductive Refusal where
  /-- Raised by `exec` for an instruction that is not modelled yet; no arm raises it. Safe: nothing is claimed of it. -/
  | notModelled (mnemonic : String)
deriving DecidableEq, Repr

/-- An environment with no answers prepared and no call left unanswered. DESIGN CHOICE, log entries 5 and 6. -/
def emptyEnvironment : Environment :=
  { initializeEngine := [], evaluate := [], getOutputNode := [], getFormatDescriptor := [], getFrame := [],
    getPlaneData := [], allocFrame := [], stallAt := none }

/-- `BGR32_FLIP` at its default (R6) and a memory map that admits every access. DESIGN CHOICE for the latter, log entry 9. -/
def defaultPlatform : Platform := { bgr32Flip := Config.bgr32FlipDefault, refused := [] }

/-- The machine right after reset (10_state.md R49): every register 0, the trace and the response list empty, memory with
nothing listed; no command presented. -/
def State.reset : State :=
  { regs := RegFile.zero, trace := [], responses := [], mem := [], commands := [], index := 0, env := emptyEnvironment,
    platform := defaultPlatform, freeIndex := 0 }

end Sys2Proof.Machine
end

