-- ==== Sys2Proof/Machine/Operands.lean ====
section
/-! DEFINITION. Every operand form of the commands: registers by name and by the 8-bit index `RA` (spec/10_state.md R22),
what the host may write (R22, R41), bit fields of a register (R23, R35 to R37), and the plane registers (R40). -/

namespace Sys2Proof.Machine

/-- The index of a register (R22). -/
def regIndex : Reg → BitVec 8
  | .ctrl => 0x00
  | .scriptRef => 0x01
  | .status => 0x02
  | .diag => 0x03
  | .pFmt => 0x10
  | .pBps => 0x11
  | .pPlanes => 0x12
  | .pSs => 0x13
  | .pPacked => 0x14
  | .pWidth => 0x15
  | .pHeight => 0x16
  | .pFrames => 0x17
  | .pFpsnumLo => 0x18
  | .pFpsnumHi => 0x19
  | .pFpsdenLo => 0x1A
  | .pFpsdenHi => 0x1B
  | .cFmt => 0x20
  | .pmode => 0x21
  | .xsel => 0x22
  | .cWidth => 0x23
  | .cHeight => 0x24
  | .cFrames => 0x25
  | .cFpsnum => 0x26
  | .cFpsden => 0x27
  | .ctxH => 0x28
  | .nodeH => 0x29
  | .frameH => 0x2A
  | .dstH => 0x2B
  | .srcBase0 => 0x30
  | .srcStride0 => 0x31
  | .srcBase1 => 0x32
  | .srcStride1 => 0x33
  | .srcBase2 => 0x34
  | .srcStride2 => 0x35
  | .dstBase0 => 0x38
  | .dstStride0 => 0x39
  | .dstBase1 => 0x3A
  | .dstStride1 => 0x3B
  | .dstBase2 => 0x3C
  | .dstStride2 => 0x3D

/-- Every register, in the order of the table (R22). -/
def allRegs : List Reg :=
  [.ctrl, .scriptRef, .status, .diag, .pFmt, .pBps, .pPlanes, .pSs,
    .pPacked, .pWidth, .pHeight, .pFrames, .pFpsnumLo, .pFpsnumHi, .pFpsdenLo, .pFpsdenHi,
    .cFmt, .pmode, .xsel, .cWidth, .cHeight, .cFrames, .cFpsnum, .cFpsden,
    .ctxH, .nodeH, .frameH, .dstH, .srcBase0, .srcStride0, .srcBase1, .srcStride1,
    .srcBase2, .srcStride2, .dstBase0, .dstStride0, .dstBase1, .dstStride1, .dstBase2, .dstStride2]

/-- The register at an index, if the index is implemented (R22). -/
def regOfIndex (ra : BitVec 8) : Option Reg := allRegs.find? (fun r => regIndex r == ra)

/-- The register's name as the spec writes it (R22, 30_encoding.md R100). -/
def regName : Reg → String
  | .ctrl => "CTRL"
  | .scriptRef => "SCRIPT_REF"
  | .status => "STATUS"
  | .diag => "DIAG"
  | .pFmt => "P_FMT"
  | .pBps => "P_BPS"
  | .pPlanes => "P_PLANES"
  | .pSs => "P_SS"
  | .pPacked => "P_PACKED"
  | .pWidth => "P_WIDTH"
  | .pHeight => "P_HEIGHT"
  | .pFrames => "P_FRAMES"
  | .pFpsnumLo => "P_FPSNUM_LO"
  | .pFpsnumHi => "P_FPSNUM_HI"
  | .pFpsdenLo => "P_FPSDEN_LO"
  | .pFpsdenHi => "P_FPSDEN_HI"
  | .cFmt => "C_FMT"
  | .pmode => "PMODE"
  | .xsel => "XSEL"
  | .cWidth => "C_WIDTH"
  | .cHeight => "C_HEIGHT"
  | .cFrames => "C_FRAMES"
  | .cFpsnum => "C_FPSNUM"
  | .cFpsden => "C_FPSDEN"
  | .ctxH => "CTX_H"
  | .nodeH => "NODE_H"
  | .frameH => "FRAME_H"
  | .dstH => "DST_H"
  | .srcBase0 => "SRC_BASE0"
  | .srcStride0 => "SRC_STRIDE0"
  | .srcBase1 => "SRC_BASE1"
  | .srcStride1 => "SRC_STRIDE1"
  | .srcBase2 => "SRC_BASE2"
  | .srcStride2 => "SRC_STRIDE2"
  | .dstBase0 => "DST_BASE0"
  | .dstStride0 => "DST_STRIDE0"
  | .dstBase1 => "DST_BASE1"
  | .dstStride1 => "DST_STRIDE1"
  | .dstBase2 => "DST_BASE2"
  | .dstStride2 => "DST_STRIDE2"

/-- The "host access" column of R22: `true` is "read; write when idle", `false` is "read only". -/
def hostWritable : Reg → Bool
  | .ctrl => true
  | .scriptRef => true
  | .status => false
  | .diag => false
  | .pFmt => true
  | .pBps => true
  | .pPlanes => true
  | .pSs => true
  | .pPacked => true
  | .pWidth => true
  | .pHeight => true
  | .pFrames => true
  | .pFpsnumLo => true
  | .pFpsnumHi => true
  | .pFpsdenLo => true
  | .pFpsdenHi => true
  | .cFmt => false
  | .pmode => false
  | .xsel => false
  | .cWidth => false
  | .cHeight => false
  | .cFrames => false
  | .cFpsnum => false
  | .cFpsden => false
  | .ctxH => false
  | .nodeH => false
  | .frameH => false
  | .dstH => false
  | .srcBase0 => true
  | .srcStride0 => true
  | .srcBase1 => true
  | .srcStride1 => true
  | .srcBase2 => true
  | .srcStride2 => true
  | .dstBase0 => true
  | .dstStride0 => true
  | .dstBase1 => true
  | .dstStride1 => true
  | .dstBase2 => true
  | .dstStride2 => true

/-- `x[NAME]`: the 32-bit value of a register (00_scope.md R8). -/
def RegFile.get (f : RegFile) : Reg → Word
  | .ctrl => f.ctrl
  | .scriptRef => f.scriptRef
  | .status => f.status
  | .diag => f.diag
  | .pFmt => f.pFmt
  | .pBps => f.pBps
  | .pPlanes => f.pPlanes
  | .pSs => f.pSs
  | .pPacked => f.pPacked
  | .pWidth => f.pWidth
  | .pHeight => f.pHeight
  | .pFrames => f.pFrames
  | .pFpsnumLo => f.pFpsnumLo
  | .pFpsnumHi => f.pFpsnumHi
  | .pFpsdenLo => f.pFpsdenLo
  | .pFpsdenHi => f.pFpsdenHi
  | .cFmt => f.cFmt
  | .pmode => f.pmode
  | .xsel => f.xsel
  | .cWidth => f.cWidth
  | .cHeight => f.cHeight
  | .cFrames => f.cFrames
  | .cFpsnum => f.cFpsnum
  | .cFpsden => f.cFpsden
  | .ctxH => f.ctxH
  | .nodeH => f.nodeH
  | .frameH => f.frameH
  | .dstH => f.dstH
  | .srcBase0 => f.srcBase0
  | .srcStride0 => f.srcStride0
  | .srcBase1 => f.srcBase1
  | .srcStride1 => f.srcStride1
  | .srcBase2 => f.srcBase2
  | .srcStride2 => f.srcStride2
  | .dstBase0 => f.dstBase0
  | .dstStride0 => f.dstStride0
  | .dstBase1 => f.dstBase1
  | .dstStride1 => f.dstStride1
  | .dstBase2 => f.dstBase2
  | .dstStride2 => f.dstStride2

/-- `x[NAME] <- v` (00_scope.md R8). -/
def RegFile.set (f : RegFile) (r : Reg) (v : Word) : RegFile :=
  match r with
  | .ctrl => { f with ctrl := v }
  | .scriptRef => { f with scriptRef := v }
  | .status => { f with status := v }
  | .diag => { f with diag := v }
  | .pFmt => { f with pFmt := v }
  | .pBps => { f with pBps := v }
  | .pPlanes => { f with pPlanes := v }
  | .pSs => { f with pSs := v }
  | .pPacked => { f with pPacked := v }
  | .pWidth => { f with pWidth := v }
  | .pHeight => { f with pHeight := v }
  | .pFrames => { f with pFrames := v }
  | .pFpsnumLo => { f with pFpsnumLo := v }
  | .pFpsnumHi => { f with pFpsnumHi := v }
  | .pFpsdenLo => { f with pFpsdenLo := v }
  | .pFpsdenHi => { f with pFpsdenHi := v }
  | .cFmt => { f with cFmt := v }
  | .pmode => { f with pmode := v }
  | .xsel => { f with xsel := v }
  | .cWidth => { f with cWidth := v }
  | .cHeight => { f with cHeight := v }
  | .cFrames => { f with cFrames := v }
  | .cFpsnum => { f with cFpsnum := v }
  | .cFpsden => { f with cFpsden := v }
  | .ctxH => { f with ctxH := v }
  | .nodeH => { f with nodeH := v }
  | .frameH => { f with frameH := v }
  | .dstH => { f with dstH := v }
  | .srcBase0 => { f with srcBase0 := v }
  | .srcStride0 => { f with srcStride0 := v }
  | .srcBase1 => { f with srcBase1 := v }
  | .srcStride1 => { f with srcStride1 := v }
  | .srcBase2 => { f with srcBase2 := v }
  | .srcStride2 => { f with srcStride2 := v }
  | .dstBase0 => { f with dstBase0 := v }
  | .dstStride0 => { f with dstStride0 := v }
  | .dstBase1 => { f with dstBase1 := v }
  | .dstStride1 => { f with dstStride1 := v }
  | .dstBase2 => { f with dstBase2 := v }
  | .dstStride2 => { f with dstStride2 := v }

/-- `v[lo+n-1:lo]`: the field of `n` bits of a word from bit `lo` on (00_scope.md R7). -/
def bits (w : Word) (lo n : Nat) : BitVec n := w.extractLsb' lo n

/-- Write one field and leave the others (00_scope.md R8, `x[NAME].F <- v`). -/
def setBits (w : Word) (lo : Nat) {n : Nat} (v : BitVec n) : Word :=
  (w &&& ~~~((BitVec.allOnes n).setWidth 32 <<< lo)) ||| (v.setWidth 32 <<< lo)

/-- `u32(v)`: `v mod 2^32` for any integer `v` (00_scope.md R7). -/
def u32 (v : Int) : Word := BitVec.ofInt 32 v

/-- `signed32(v)`: the two's complement reading (00_scope.md R7). -/
def signed32 (v : Word) : Int := if v.toNat < 2 ^ 31 then v.toNat else (v.toNat : Int) - 2 ^ 32

/-- What SETR stores in a register: the register's own write mask, which only CTRL has (10_state.md R23,
30_encoding.md R92). -/
def hostValue (r : Reg) (imm : Word) : Word := if r = .ctrl then imm &&& 0x0000FF07 else imm

/-- `CTRL.NATIVE`, bit 0 (R23). -/
def ctrlNative (f : RegFile) : Bool := bits f.ctrl 0 1 == 1

/-- `CTRL.STACKED_REQ`, bit 1 (R23). -/
def ctrlStackedReq (f : RegFile) : Bool := bits f.ctrl 1 1 == 1

/-- `CTRL.INLINE`, bit 2 (R23). -/
def ctrlInline (f : RegFile) : Bool := bits f.ctrl 2 1 == 1

/-- `CTRL.OUTIDX`, bits 15:8 (R23). -/
def ctrlOutidx (f : RegFile) : BitVec 8 := bits f.ctrl 8 8

/-- `XSEL.SEL`, bits 1:0 (R37). -/
def xselSel (f : RegFile) : BitVec 2 := bits f.xsel 0 2

/-- `XSEL.FLIP`, bit 2 (R37). -/
def xselFlip (f : RegFile) : Bool := bits f.xsel 2 1 == 1

/-- The frame-rate numerator `P_FPSNUM_HI ++ P_FPSNUM_LO` (R34). -/
def fpsNum (f : RegFile) : BitVec 64 := f.pFpsnumHi ++ f.pFpsnumLo

/-- The frame-rate denominator `P_FPSDEN_HI ++ P_FPSDEN_LO` (R34). -/
def fpsDen (f : RegFile) : BitVec 64 := f.pFpsdenHi ++ f.pFpsdenLo

/-- The plane indices 0, 1, 2 (R40). -/
def allPlanes : List Plane := [0, 1, 2]

/-- The planes `0 .. n-1` of a format with `n` planes. -/
def planesBelow (n : Nat) : List Plane := allPlanes.filter (fun p => decide (p.val < n))

/-- `(SRC_BASEp, SRC_STRIDEp)` (R40). -/
def srcPlane (f : RegFile) : Plane → PlaneRef
  | 0 => { base := f.srcBase0, stride := f.srcStride0 }
  | 1 => { base := f.srcBase1, stride := f.srcStride1 }
  | 2 => { base := f.srcBase2, stride := f.srcStride2 }

/-- `(DST_BASEp, DST_STRIDEp)` (R40). -/
def dstPlane (f : RegFile) : Plane → PlaneRef
  | 0 => { base := f.dstBase0, stride := f.dstStride0 }
  | 1 => { base := f.dstBase1, stride := f.dstStride1 }
  | 2 => { base := f.dstBase2, stride := f.dstStride2 }

/-- `(SRC_BASEp, SRC_STRIDEp) <- v` (R40). -/
def setSrcPlane (f : RegFile) (p : Plane) (v : PlaneRef) : RegFile :=
  match p with
  | 0 => { f with srcBase0 := v.base, srcStride0 := v.stride }
  | 1 => { f with srcBase1 := v.base, srcStride1 := v.stride }
  | 2 => { f with srcBase2 := v.base, srcStride2 := v.stride }

/-- `(DST_BASEp, DST_STRIDEp) <- v` (R40). -/
def setDstPlane (f : RegFile) (p : Plane) (v : PlaneRef) : RegFile :=
  match p with
  | 0 => { f with dstBase0 := v.base, dstStride0 := v.stride }
  | 1 => { f with dstBase1 := v.base, dstStride1 := v.stride }
  | 2 => { f with dstBase2 := v.base, dstStride2 := v.stride }

end Sys2Proof.Machine
end

