-- ==== Sys2Proof/Machine/Flags.lean ====
section
/-! DEFINITION. The PFC's only flags: the PHASE, HAVE_* and ERR fields of STATUS (spec/10_state.md R25, R42, R43). There
are no arithmetic condition codes. Each field is read and written here, and a write leaves the other fields alone. -/

namespace Sys2Proof.Machine

/-- The encoding of the phases (R43); 7 is never written. -/
def Phase.code : Phase → BitVec 3
  | .uninit => 0
  | .validated => 1
  | .ready => 2
  | .fetching => 3
  | .converting => 4
  | .done => 5
  | .failed => 6

/-- `STATUS.PHASE`, bits 2:0 (R25). -/
def phaseBits (f : RegFile) : BitVec 3 := bits f.status 0 3

/-- `STATUS.HAVE_ENGINE`, bit 3 (R25). -/
def haveEngine (f : RegFile) : Bool := bits f.status 3 1 == 1

/-- `STATUS.HAVE_CTX`, bit 4 (R25). -/
def haveCtx (f : RegFile) : Bool := bits f.status 4 1 == 1

/-- `STATUS.HAVE_NODE`, bit 5 (R25). -/
def haveNode (f : RegFile) : Bool := bits f.status 5 1 == 1

/-- `STATUS.HAVE_FRAME`, bit 6 (R25). -/
def haveFrame (f : RegFile) : Bool := bits f.status 6 1 == 1

/-- `STATUS.ERR`, bits 15:8 (R25). -/
def errBits (f : RegFile) : BitVec 8 := bits f.status 8 8

/-- `x[STATUS].PHASE <- p`. -/
def setPhase (p : Phase) (f : RegFile) : RegFile := { f with status := setBits f.status 0 p.code }

/-- `x[STATUS].HAVE_ENGINE <- b`. -/
def setHaveEngine (b : Bool) (f : RegFile) : RegFile := { f with status := setBits f.status 3 (BitVec.ofBool b) }

/-- `x[STATUS].HAVE_CTX <- b`. -/
def setHaveCtx (b : Bool) (f : RegFile) : RegFile := { f with status := setBits f.status 4 (BitVec.ofBool b) }

/-- `x[STATUS].HAVE_NODE <- b`. -/
def setHaveNode (b : Bool) (f : RegFile) : RegFile := { f with status := setBits f.status 5 (BitVec.ofBool b) }

/-- `x[STATUS].HAVE_FRAME <- b`. -/
def setHaveFrame (b : Bool) (f : RegFile) : RegFile := { f with status := setBits f.status 6 (BitVec.ofBool b) }

/-- `x[STATUS].ERR <- e`. -/
def setErr (e : BitVec 8) (f : RegFile) : RegFile := { f with status := setBits f.status 8 e }

/-- *In session*: `STATUS.PHASE` is READY (R41). This is the test the commands make (30_encoding.md R97). -/
def inSession (f : RegFile) : Bool := phaseBits f == Phase.ready.code

/-- *Idle*: `STATUS.PHASE` is UNINIT or FAILED (R41). -/
def isIdle (f : RegFile) : Bool := phaseBits f == Phase.uninit.code || phaseBits f == Phase.failed.code

end Sys2Proof.Machine
end

