-- ==== Sys2Proof/Machine/Ops.lean ====
section
/-! DEFINITION. The named operations the commands share: giving a response and raising an error (spec/30_encoding.md R98,
60_exceptions.md R236), the command port (10_state.md R21), the data memory and the platform's map (20_memory.md R60 to
R64), the elementary moves of the transcoders in their canonical order (R69), and the free bytes (U4, U8). -/

namespace Sys2Proof.Machine

/-! ### Responses and errors -/

/-- The code numbers of 60_exceptions.md R230. -/
def ErrCode.code : ErrCode → BitVec 8
  | .engineInit => 1
  | .scriptEval => 2
  | .noOutputNode => 3
  | .length => 4
  | .variableFormat => 5
  | .variableFps => 6
  | .fpsRange => 7
  | .unsupportedFormat => 8
  | .fetch => 9
  | .alloc => 10
  | .mem => 11
  | .state => 12
  | .illegalCmd => 13
  | .param => 14
  | .reg => 15

/-- `respond(0, data)`: the command ends with success (30_encoding.md R98). -/
def respondOk (data : List Word) (s : State) : State :=
  { s with responses := s.responses ++ [{ code := 0, data := data }] }

/-- `raise e`, the one way an error is taken (60_exceptions.md R236): the response record `(e, [])` and nothing else. No
register is written, nothing is saved, vectored or returned from (R237). -/
def raise (e : ErrCode) (s : State) : State :=
  { s with responses := s.responses ++ [{ code := e.code, data := [] }] }

/-! ### The command port -/

/-- The word the host presents next, if its list has one left (10_state.md R21). -/
def fetchWord (s : State) : Option CommandWord := s.commands[s.index]?

/-- The command is over: the index advances by exactly 1 (R21, R236). -/
def advance (s : State) : State := { s with index := s.index + 1 }

/-- The command list with `w` at the position the next step reads; positions before it that the list lacks hold NOP. -/
def placeWord (s : State) (w : CommandWord) : State :=
  { s with commands := s.commands.take s.index ++ List.replicate (s.index - s.commands.length) 0 ++
      w :: s.commands.drop (s.index + 1) }

/-- The platform's reset input (70_reset_and_hazards.md R260) between two commands: every register 0, trace and response
list empty, memory untouched, no environment call. It is no command (log entry 12). -/
def platformReset (s : State) : State := { s with regs := RegFile.zero, trace := [], responses := [] }

/-! ### The data memory -/

/-- The byte at an address (20_memory.md R60). -/
def Memory.read : Memory → Nat → Byte
  | [], _ => Config.unlistedByte
  | (b, v) :: rest, a => if b = a then v else Memory.read rest a

/-- Write one byte and keep the canonical form: the value an unlisted address reads as removes the entry. -/
def Memory.write : Memory → Nat → Byte → Memory
  | [], a, v => if v = Config.unlistedByte then [] else [(a, v)]
  | (b, w) :: rest, a, v =>
    if a < b then (if v = Config.unlistedByte then (b, w) :: rest else (a, v) :: (b, w) :: rest)
    else if a = b then (if v = Config.unlistedByte then rest else (a, v) :: rest)
    else (b, w) :: Memory.write rest a v

/-- The byte at a 32-bit address. -/
def memByte (m : Memory) (a : Word) : Byte := Memory.read m a.toNat

/-- Whether a region refuses an access kind at an address. -/
def regionRefuses (g : Region) (a : Word) (k : AccessKind) : Bool :=
  decide (g.base ≤ a.toNat) && decide (a.toNat < g.base + g.size) &&
    (match k with
      | .r => g.refusesRead
      | .w => g.refusesWrite)

/-- `Admit(addr, kind)` (20_memory.md R62): no region refuses the access. -/
def admits (pl : Platform) (a : Word) (k : AccessKind) : Bool := !(pl.refused.any (fun g => regionRefuses g a k))

/-- `MemRead(a, 1)` (00_scope.md R8); none is `E_MEM` (60_exceptions.md R233). -/
def memRead1 (pl : Platform) (m : Memory) (a : Word) : Option Byte :=
  if admits pl a .r then some (memByte m a) else none

/-- `MemRead(a, 2)`: little-endian, the byte at the higher address most significant (20_memory.md R64); refused if either
byte is refused (60_exceptions.md R233). -/
def memRead2 (pl : Platform) (m : Memory) (a : Word) : Option Sample :=
  if admits pl a .r && admits pl (a + 1) .r then some (memByte m (a + 1) ++ memByte m a) else none

/-- `MemWrite(a, 1, v)` (00_scope.md R8); none is `E_MEM`. -/
def memWrite (pl : Platform) (m : Memory) (a : Word) (v : Byte) : Option Memory :=
  if admits pl a .w then some (Memory.write m a.toNat v) else none

/-- `RowAddr(B, S, r) = u32(B + r * signed32(S))` (20_memory.md R63). -/
def rowAddr (pl : PlaneRef) (r : Nat) : Word := u32 (pl.base.toNat + r * signed32 pl.stride)

/-- The address `k` bytes into a row: `RowAddr + k` modulo 2^32 (R63). -/
def byteAddr (row : Word) (k : Nat) : Word := row + BitVec.ofNat 32 k

/-! ### The moves of a transcoder -/

/-- The innermost body of each transcoder's pseudocode. -/
inductive Move where
  /-- BLIT (43_transcoders.md R172): `MemWrite(dst, 1, MemRead(src, 1))`. -/
  | copy (src dst : Word)
  /-- STACK (R176): `s <- MemRead(src, 2)`, then `s >> 8` to the top half and `s & 0xFF` to the bottom half. -/
  | split (src top bottom : Word)
  /-- BGRPACK (R183): read R, G, B; write B, G, R at `dst`, `dst + 1`, `dst + 2`, as many of the three as the row has room
  for: `room` bytes of it are left from `dst` on (42_geometry_and_select.md R160, U6). -/
  | triplet (r g b dst : Word) (room : Nat)
deriving DecidableEq, Repr

/-- The most significant byte of a sample, `s >> 8` (43_transcoders.md R174). -/
def sampleMsb (s : Sample) : Byte := (s >>> 8).setWidth 8

/-- The least significant byte of a sample, `s & 0xFF` (R174). -/
def sampleLsb (s : Sample) : Byte := (s &&& 0xFF).setWidth 8

/-- `MemWrite` of a list of bytes in its order, stopping at the first refused one. -/
def memWrites (pl : Platform) (m : Memory) : List (Word × Byte) → Option Memory
  | [] => some m
  | (a, v) :: rest => (memWrite pl m a v).bind (fun m' => memWrites pl m' rest)

/-- One move, its accesses in the order of its pseudocode; none is `E_MEM`. -/
def runMove (pl : Platform) (m : Memory) : Move → Option Memory
  | .copy src dst => do
    let v ← memRead1 pl m src
    memWrite pl m dst v
  | .split src top bottom => do
    let s ← memRead2 pl m src
    let m ← memWrite pl m top (sampleMsb s)
    memWrite pl m bottom (sampleLsb s)
  | .triplet r g b dst room => do
    let rv ← memRead1 pl m r
    let gv ← memRead1 pl m g
    let bv ← memRead1 pl m b
    memWrites pl m ([(dst, bv), (dst + 1, gv), (dst + 2, rv)].take room)

/-- The moves of a command in the canonical order (20_memory.md R69), stopping at the first refused access (R235). -/
def runMoves (pl : Platform) (m : Memory) : List Move → Option Memory
  | [] => some m
  | mv :: rest => (runMove pl m mv).bind (fun m' => runMoves pl m' rest)

/-- The addresses a move reads. -/
def moveReads : Move → List Word
  | .copy src _ => [src]
  | .split src _ _ => [src, src + 1]
  | .triplet r g b _ _ => [r, g, b]

/-- The addresses a move writes. -/
def moveWrites : Move → List Word
  | .copy _ dst => [dst]
  | .split _ top bottom => [top, bottom]
  | .triplet _ _ _ dst room => [dst, dst + 1, dst + 2].take room

/-- The source rectangles of a command, byte by byte (20_memory.md R68): every byte a move reads. DESIGN CHOICE (log entry 19,
safe): a row of STACK counts with the `2 * w_p` bytes it reads (42_geometry_and_select.md R160, 43_transcoders.md R176), where
R68's `srcRowBytes_p` is `u32(2 * w_p)`; the two differ for `w_p` of 2^31 and more. -/
def sourceBytes (ms : List Move) : List Word := ms.flatMap moveReads

/-- The destination rectangles of a command, byte by byte (R68). -/
def destBytes (ms : List Move) : List Word := ms.flatMap moveWrites

/-- `RowsDisjoint` (R68 a): no two destination bytes have the same address. -/
def rowsDisjoint (ms : List Move) : Bool := decide (destBytes ms).Nodup

/-- `SrcDstDisjoint` (R68 b): no destination byte has the address of a source byte, as `sourceBytes` counts them (log entry 19). -/
def srcDstDisjoint (ms : List Move) : Bool := (destBytes ms).all (fun a => !((sourceBytes ms).contains a))

/-- Every byte of a list of addresses takes a free value of batch `k`: nothing is known of it (U4, U8). -/
def scrambleMem (k : Nat) (m : Memory) : List Word → Memory
  | [] => m
  | a :: rest => scrambleMem k (Memory.write m a.toNat (Config.freeByte k a.toNat)) rest

/-- The destination bytes hold unspecified values, and the batch number advances. -/
def scramble (as : List Word) (s : State) : State :=
  { s with mem := scrambleMem s.freeIndex s.mem as, freeIndex := s.freeIndex + 1 }

/-- The body of a transcoder on memory: the moves in canonical order. After `E_MEM` every destination byte is unspecified
(43_transcoders.md R186, U8); where `RowsDisjoint` or `SrcDstDisjoint` fails too (20_memory.md R68, U4), the registers and
the response being as in the non-overlapping case. Log entries 7 and 8. -/
def transfer (ms : List Move) (s : State) : Option ErrCode × State :=
  match runMoves s.platform s.mem ms with
  | none => (some .mem, scramble (destBytes ms) s)
  | some m =>
    if rowsDisjoint ms && srcDstDisjoint ms then (none, { s with mem := m }) else (none, scramble (destBytes ms) s)

/-! ### The phase check -/

/-- A command that the phases UNINIT and FAILED accept and READY does not (30_encoding.md R97): `E_STATE` in session. -/
def whenIdle (s : State) (k : State → State) : Host.Outcome State Fault Refusal :=
  if inSession s.regs then .next (raise .state s) else .next (k s)

/-- How a transcoder command ends: `E_MEM`, or an empty answer. -/
def endTransfer (r : Option ErrCode × State) : State :=
  match r with
  | (some e, s) => raise e s
  | (none, s) => respondOk [] s

end Sys2Proof.Machine
end

