-- ==== Sys2Proof/Machine/HostRegs.lean ====
section
/-! DEFINITION. The host register commands NOP, SETR and RDR (spec/40_host_register_commands.md R120 to R122). -/

namespace Sys2Proof.Machine

/-- NOP (R120): `respond(0, [])`. -/
def execNop (s : State) : Host.Outcome State Fault Refusal := .next (respondOk [] s)

/-- SETR reg, imm (R121): `E_STATE` in session; `E_REG` for an unimplemented or read-only register; else the register takes
the value under its write mask. -/
def execSetr (ra : BitVec 8) (imm : Word) (s : State) : Host.Outcome State Fault Refusal :=
  whenIdle s fun s =>
    match regOfIndex ra with
    | none => raise .reg s
    | some r =>
      if hostWritable r then respondOk [] { s with regs := s.regs.set r (hostValue r imm) } else raise .reg s

/-- RDR reg (R122): `E_REG` for an unimplemented register; else its value. Accepted in every phase, without side effect. -/
def execRdr (ra : BitVec 8) (s : State) : Host.Outcome State Fault Refusal :=
  match regOfIndex ra with
  | none => .next (raise .reg s)
  | some r => .next (respondOk [s.regs.get r] s)

end Sys2Proof.Machine
end

