-- ==== Sys2Proof/Machine/Environment.lean ====
section
/-! DEFINITION. The calls of the producer port and the allocator port (spec/10_state.md R46). Each call takes the first of
the answers prepared for it, or the free oracle's when none is prepared (U11), and is appended to the trace with its
arguments and its result (R47). Log entry 5. -/

namespace Sys2Proof.Machine

/-- Append one call to the trace (R47). -/
def record (e : EnvEvent) (s : State) : State := { s with trace := s.trace ++ [e] }

/-- The answer `initializeEngine()` gets now. -/
def answerInitializeEngine (s : State) : Bool :=
  match s.env.initializeEngine with
  | b :: _ => b
  | [] => Config.oracleInitializeEngine s.trace

/-- `Env.initializeEngine()`. -/
def callInitializeEngine (s : State) : Bool × State :=
  let b := answerInitializeEngine s
  (b, record (.initializeEngine b)
    { s with env := { s.env with initializeEngine := s.env.initializeEngine.tail } })

/-- The answer `evaluate(script_ref, inline)` gets now. -/
def answerEvaluate (scriptRef : Word) (inline : Bool) (s : State) : EvalResult :=
  match s.env.evaluate with
  | r :: _ => r
  | [] => Config.oracleEvaluate s.trace scriptRef inline

/-- `Env.evaluate(script_ref, inline)`. -/
def callEvaluate (scriptRef : Word) (inline : Bool) (s : State) : EvalResult × State :=
  let r := answerEvaluate scriptRef inline s
  (r, record (.evaluate scriptRef inline r) { s with env := { s.env with evaluate := s.env.evaluate.tail } })

/-- The answer `getOutputNode(ctx, index)` gets now. -/
def answerGetOutputNode (ctx : Word) (index : BitVec 8) (s : State) : Option Word :=
  match s.env.getOutputNode with
  | r :: _ => r
  | [] => Config.oracleGetOutputNode s.trace ctx index

/-- `Env.getOutputNode(ctx, index)`. -/
def callGetOutputNode (ctx : Word) (index : BitVec 8) (s : State) : Option Word × State :=
  let r := answerGetOutputNode ctx index s
  (r, record (.getOutputNode ctx index r)
    { s with env := { s.env with getOutputNode := s.env.getOutputNode.tail } })

/-- The answer `getFormatDescriptor(node)` gets now. -/
def answerGetFormatDescriptor (node : Word) (s : State) : Descriptor :=
  match s.env.getFormatDescriptor with
  | d :: _ => d
  | [] => Config.oracleGetFormatDescriptor s.trace node

/-- `Env.getFormatDescriptor(node)`. -/
def callGetFormatDescriptor (node : Word) (s : State) : Descriptor × State :=
  let d := answerGetFormatDescriptor node s
  (d, record (.getFormatDescriptor node d)
    { s with env := { s.env with getFormatDescriptor := s.env.getFormatDescriptor.tail } })

/-- The answer `getFrame(node, n)` gets now. -/
def answerGetFrame (node n : Word) (s : State) : Option Word :=
  match s.env.getFrame with
  | r :: _ => r
  | [] => Config.oracleGetFrame s.trace node n

/-- `Env.getFrame(node, n)`. -/
def callGetFrame (node n : Word) (s : State) : Option Word × State :=
  let r := answerGetFrame node n s
  (r, record (.getFrame node n r) { s with env := { s.env with getFrame := s.env.getFrame.tail } })

/-- The answer `getPlaneData(frame, p)` gets now. -/
def answerGetPlaneData (frame : Word) (p : Plane) (s : State) : PlaneRef :=
  match s.env.getPlaneData with
  | r :: _ => r
  | [] => Config.oracleGetPlaneData s.trace frame p

/-- `Env.getPlaneData(frame, p)`. -/
def callGetPlaneData (frame : Word) (p : Plane) (s : State) : PlaneRef × State :=
  let r := answerGetPlaneData frame p s
  (r, record (.getPlaneData frame p r) { s with env := { s.env with getPlaneData := s.env.getPlaneData.tail } })

/-- The answer `allocFrame(cfmt, width, height)` gets now. -/
def answerAllocFrame (cfmt width height : Word) (s : State) : Option Allocation :=
  match s.env.allocFrame with
  | r :: _ => r
  | [] => Config.oracleAllocFrame s.trace cfmt width height

/-- `Env.allocFrame(cfmt, width, height)`. -/
def callAllocFrame (cfmt width height : Word) (s : State) : Option Allocation × State :=
  let r := answerAllocFrame cfmt width height s
  (r, record (.allocFrame cfmt width height r)
    { s with env := { s.env with allocFrame := s.env.allocFrame.tail } })

/-- `Env.releaseFrame(frame)`: answers nothing and cannot fail (60_exceptions.md R238). -/
def callReleaseFrame (frame : Word) (s : State) : State := record (.releaseFrame frame) s

/-- `Env.releaseNode(node)`. -/
def callReleaseNode (node : Word) (s : State) : State := record (.releaseNode node) s

/-- `Env.releaseContext(ctx)`. -/
def callReleaseContext (ctx : Word) (s : State) : State := record (.releaseContext ctx) s

/-- `Env.engineRelease()` (44_session.md R203). -/
def callEngineRelease (s : State) : State := record .engineRelease s

/-- Whether one of the calls numbered `from .. upto-1` is the one the environment never answers (R268). -/
def stallsBetween (e : Environment) (start upto : Nat) : Bool :=
  match e.stallAt with
  | none => false
  | some k => decide (start ≤ k) && decide (k < upto)

/-- The end of a command that made environment calls: with every call answered it goes from `s` to `t`; if one of its calls
is never answered it never ends (70_reset_and_hazards.md R268, U13). Log entry 6. -/
def afterCalls (s t : State) : Host.Outcome State Fault Refusal :=
  if stallsBetween s.env s.trace.length t.trace.length then .fault .envNeverAnswers else .next t

end Sys2Proof.Machine
end

