-- ==== Sys2Proof/Machine/FormatTable.lean ====
section
/-! DEFINITION. The Format Table unit (spec/41_format_table.md R130 to R135): the known producer formats with their
canonical descriptors, the consumer formats, the function `Map`, and the command MAP. -/

namespace Sys2Proof.Machine

/-- The ConsumerFormatId (R131). -/
inductive ConsumerFormat where
  /-- 0 UNSUPPORTED. -/
  | unsupported
  /-- 1 Y8. -/
  | y8
  /-- 2 Y16. -/
  | y16
  /-- 3 P420_8. -/
  | p420x8
  /-- 4 P422_8. -/
  | p422x8
  /-- 5 P444_8. -/
  | p444x8
  /-- 6 P411_8. -/
  | p411x8
  /-- 7 P420_16. -/
  | p420x16
  /-- 8 P422_16. -/
  | p422x16
  /-- 9 P444_16. -/
  | p444x16
  /-- 10 P420_F32. -/
  | p420f32
  /-- 11 P422_F32. -/
  | p422f32
  /-- 12 P444_F32. -/
  | p444f32
  /-- 13 BGR24. -/
  | bgr24
  /-- 14 BGR32. -/
  | bgr32
  /-- 15 YUY2. -/
  | yuy2
deriving DecidableEq, Repr

/-- Every consumer format (R131). -/
def allConsumerFormats : List ConsumerFormat :=
  [.unsupported, .y8, .y16, .p420x8, .p422x8, .p444x8, .p411x8, .p420x16,
    .p422x16, .p444x16, .p420f32, .p422f32, .p444f32, .bgr24, .bgr32, .yuy2]

/-- The value of `C_FMT` (R131). -/
def ConsumerFormat.code : ConsumerFormat → Word
  | .unsupported => 0
  | .y8 => 1
  | .y16 => 2
  | .p420x8 => 3
  | .p422x8 => 4
  | .p444x8 => 5
  | .p411x8 => 6
  | .p420x16 => 7
  | .p422x16 => 8
  | .p444x16 => 9
  | .p420f32 => 10
  | .p422f32 => 11
  | .p444f32 => 12
  | .bgr24 => 13
  | .bgr32 => 14
  | .yuy2 => 15

/-- The consumer format a `C_FMT` value stands for. -/
def consumerOf (c : Word) : Option ConsumerFormat := allConsumerFormats.find? (fun x => x.code == c)

/-- `cB`: the sample bytes (R131); 0 where the table has none. -/
def ConsumerFormat.sampleBytes : ConsumerFormat → Nat
  | .unsupported => 0
  | .y8 => 1
  | .y16 => 2
  | .p420x8 => 1
  | .p422x8 => 1
  | .p444x8 => 1
  | .p411x8 => 1
  | .p420x16 => 2
  | .p422x16 => 2
  | .p444x16 => 2
  | .p420f32 => 4
  | .p422f32 => 4
  | .p444f32 => 4
  | .bgr24 => 1
  | .bgr32 => 1
  | .yuy2 => 1

/-- `nDst`: the number of destination planes (R131, 42_geometry_and_select.md R162); 0 for UNSUPPORTED. -/
def ConsumerFormat.planeCount : ConsumerFormat → Nat
  | .unsupported => 0
  | .y8 => 1
  | .y16 => 1
  | .p420x8 => 3
  | .p422x8 => 3
  | .p444x8 => 3
  | .p411x8 => 3
  | .p420x16 => 3
  | .p422x16 => 3
  | .p444x16 => 3
  | .p420f32 => 3
  | .p422f32 => 3
  | .p444f32 => 3
  | .bgr24 => 1
  | .bgr32 => 1
  | .yuy2 => 1

/-- `IsWide` (R131): a native wide-sample format. -/
def ConsumerFormat.isWide : ConsumerFormat → Bool
  | .unsupported => false
  | .y8 => false
  | .y16 => true
  | .p420x8 => false
  | .p422x8 => false
  | .p444x8 => false
  | .p411x8 => false
  | .p420x16 => true
  | .p422x16 => true
  | .p444x16 => true
  | .p420f32 => true
  | .p422f32 => true
  | .p444f32 => true
  | .bgr24 => false
  | .bgr32 => false
  | .yuy2 => false

/-- `IsPacked` (R131): one of the three packed formats. -/
def ConsumerFormat.isPacked : ConsumerFormat → Bool
  | .unsupported => false
  | .y8 => false
  | .y16 => false
  | .p420x8 => false
  | .p422x8 => false
  | .p444x8 => false
  | .p411x8 => false
  | .p420x16 => false
  | .p422x16 => false
  | .p444x16 => false
  | .p420f32 => false
  | .p422f32 => false
  | .p444f32 => false
  | .bgr24 => true
  | .bgr32 => true
  | .yuy2 => true

/-- Bytes per pixel of a packed format (R131, G2); 0 for the others. -/
def ConsumerFormat.bytesPerPixel : ConsumerFormat → Nat
  | .unsupported => 0
  | .y8 => 0
  | .y16 => 0
  | .p420x8 => 0
  | .p422x8 => 0
  | .p444x8 => 0
  | .p411x8 => 0
  | .p420x16 => 0
  | .p422x16 => 0
  | .p444x16 => 0
  | .p420f32 => 0
  | .p422f32 => 0
  | .p444f32 => 0
  | .bgr24 => 3
  | .bgr32 => 4
  | .yuy2 => 2

/-- Stored row order bottom-up (R131). -/
def ConsumerFormat.bottomUp : ConsumerFormat → Bool
  | .unsupported => false
  | .y8 => false
  | .y16 => false
  | .p420x8 => false
  | .p422x8 => false
  | .p444x8 => false
  | .p411x8 => false
  | .p420x16 => false
  | .p422x16 => false
  | .p444x16 => false
  | .p420f32 => false
  | .p422f32 => false
  | .p444f32 => false
  | .bgr24 => true
  | .bgr32 => true
  | .yuy2 => false

/-- `IsWide(c)` of a register value. -/
def isWide (c : Word) : Bool := (consumerOf c).any ConsumerFormat.isWide

/-- `IsPacked(c)` of a register value. -/
def isPacked (c : Word) : Bool := (consumerOf c).any ConsumerFormat.isPacked

/-- `nDst(c)` of a register value. -/
def nDst (c : Word) : Nat := ((consumerOf c).map ConsumerFormat.planeCount).getD 0

/-- One known producer format: its identifier, its canonical descriptor (R130; none is "any"), and what it maps to without
and with the native capability (R132). -/
structure FormatRow where
  fmt : Word
  bps : Option Word
  planes : Word
  ss : Option Word
  packed : Word
  plain : ConsumerFormat
  native : ConsumerFormat
deriving DecidableEq, Repr

/-- The 22 known producer formats (R130, R132), in the order of the tables: GRAY8, GRAY16, GRAYF32; YUV420 P8, P9, P10,
P16, PF32; YUV422 likewise; YUV444 likewise; YUV411P8; RGB24; COMPATBGR32; COMPATYUY2. -/
def producerFormats : List FormatRow :=
  [ { fmt := 0x10, bps := some 1, planes := 1, ss := some 0, packed := 0, plain := .y8, native := .y8 },
    { fmt := 0x13, bps := some 2, planes := 1, ss := some 0, packed := 0, plain := .y8, native := .y16 },
    { fmt := 0x14, bps := some 4, planes := 1, ss := some 0, packed := 0, plain := .unsupported, native := .unsupported },
    { fmt := 0x20, bps := some 1, planes := 3, ss := some 3, packed := 0, plain := .p420x8, native := .p420x8 },
    { fmt := 0x21, bps := some 2, planes := 3, ss := some 3, packed := 0, plain := .p420x8, native := .p420x8 },
    { fmt := 0x22, bps := some 2, planes := 3, ss := some 3, packed := 0, plain := .p420x8, native := .p420x8 },
    { fmt := 0x23, bps := some 2, planes := 3, ss := some 3, packed := 0, plain := .p420x8, native := .p420x16 },
    { fmt := 0x24, bps := some 4, planes := 3, ss := some 3, packed := 0, plain := .unsupported, native := .p420f32 },
    { fmt := 0x30, bps := some 1, planes := 3, ss := some 2, packed := 0, plain := .p422x8, native := .p422x8 },
    { fmt := 0x31, bps := some 2, planes := 3, ss := some 2, packed := 0, plain := .p422x8, native := .p422x8 },
    { fmt := 0x32, bps := some 2, planes := 3, ss := some 2, packed := 0, plain := .p422x8, native := .p422x8 },
    { fmt := 0x33, bps := some 2, planes := 3, ss := some 2, packed := 0, plain := .p422x8, native := .p422x16 },
    { fmt := 0x34, bps := some 4, planes := 3, ss := some 2, packed := 0, plain := .unsupported, native := .p422f32 },
    { fmt := 0x40, bps := some 1, planes := 3, ss := some 1, packed := 0, plain := .p444x8, native := .p444x8 },
    { fmt := 0x41, bps := some 2, planes := 3, ss := some 1, packed := 0, plain := .p444x8, native := .p444x8 },
    { fmt := 0x42, bps := some 2, planes := 3, ss := some 1, packed := 0, plain := .p444x8, native := .p444x8 },
    { fmt := 0x43, bps := some 2, planes := 3, ss := some 1, packed := 0, plain := .p444x8, native := .p444x16 },
    { fmt := 0x44, bps := some 4, planes := 3, ss := some 1, packed := 0, plain := .unsupported, native := .p444f32 },
    { fmt := 0x50, bps := some 1, planes := 3, ss := some 4, packed := 0, plain := .p411x8, native := .p411x8 },
    { fmt := 0x60, bps := some 1, planes := 3, ss := some 0, packed := 0, plain := .bgr24, native := .bgr24 },
    { fmt := 0x70, bps := none, planes := 1, ss := none, packed := 1, plain := .bgr32, native := .bgr32 },
    { fmt := 0x80, bps := none, planes := 1, ss := none, packed := 1, plain := .yuy2, native := .yuy2 } ]

/-- The row of a producer format, if it is known (R130). -/
def formatRow (fmt : Word) : Option FormatRow := producerFormats.find? (fun r => r.fmt == fmt)

/-- `Map(fmt, native)` (R132, R133): UNSUPPORTED for every format not in the table. -/
def mapFormat (fmt : Word) (native : Bool) : ConsumerFormat :=
  match formatRow fmt with
  | none => .unsupported
  | some r => if native then r.native else r.plain

/-- The legal sample byte widths (10_state.md R28). -/
def legalBps (v : Word) : Bool := v == 1 || v == 2 || v == 4

/-- The legal subsampling classes (10_state.md R30): 0 to 4. -/
def legalSs (v : Word) : Bool := decide (v.toNat ≤ 4)

/-- The premise `DescriptorConsistent` (10_state.md R44): the format is known and the descriptor registers equal its
canonical values; where the row says "any", every legal value. -/
def descriptorConsistent (f : RegFile) : Bool :=
  match formatRow f.pFmt with
  | none => false
  | some r =>
    (match r.bps with
      | none => legalBps f.pBps
      | some v => f.pBps == v) &&
    f.pPlanes == r.planes &&
    (match r.ss with
      | none => legalSs f.pSs
      | some v => f.pSs == v) &&
    f.pPacked == r.packed

/-- `x[C_FMT] <- Map(x[P_FMT], x[CTRL].NATIVE)` (R134). -/
def runMap (f : RegFile) : RegFile := { f with cFmt := (mapFormat f.pFmt (ctrlNative f)).code }

/-- MAP (R134): writes C_FMT only; an unknown format is no error here. -/
def execMap (s : State) : Host.Outcome State Fault Refusal :=
  whenIdle s fun s => respondOk [] { s with regs := runMap s.regs }

end Sys2Proof.Machine
end

