-- ==== Sys2Proof/Machine/Geometry.lean ====
section
/-! DEFINITION. The Geometry Calculator and the transcoder selection (spec/42_geometry_and_select.md R150 to R162): the
functions `Resolve` and `Select`, the per-plane copy geometry, and the commands RESOLVE and SELECT. -/

namespace Sys2Proof.Machine

/-- The encoding of `PMODE` (10_state.md R36); 3 is never written. -/
def PackingMode.code : PackingMode → Word
  | .native => 0
  | .doubledWidth => 1
  | .stacked => 2

/-- The encoding of `XSEL.SEL` (10_state.md R37); 3 is never written. -/
def Transcoder.code : Transcoder → Word
  | .blit => 0
  | .stack => 1
  | .bgrpack => 2

/-- The transcoder `XSEL.SEL` names; 3 names none (R37, 43_transcoders.md R185). -/
def transcoderOf (sel : BitVec 2) : Option Transcoder :=
  if sel = 0 then some .blit else if sel = 1 then some .stack else if sel = 2 then some .bgrpack else none

/-- `Resolve(B, c, s, W, H)` (R152): rules 0 to 4, the first whose condition holds decides; the products wrap (R154). -/
def resolveGeometry (b c : Word) (stackedReq : Bool) (w h : Word) : PackingMode × Word × Word :=
  if isPacked c then (.native, w, h)
  else if b = 1 then (.native, w, h)
  else if isWide c then (.native, w, h)
  else if stackedReq then (.stacked, w, 2 * h)
  else (.doubledWidth, w * b, h)

/-- What RESOLVE writes (R153): the mode, the declared width and height, and the frame count and rate passed through; the
high words of the rate are not copied. -/
def runResolve (f : RegFile) : RegFile :=
  let r := resolveGeometry f.pBps f.cFmt (ctrlStackedReq f) f.pWidth f.pHeight
  { f with pmode := r.1.code, cWidth := r.2.1, cHeight := r.2.2, cFrames := f.pFrames, cFpsnum := f.pFpsnumLo,
           cFpsden := f.pFpsdenLo }

/-- RESOLVE (R153). -/
def execResolve (s : State) : Host.Outcome State Fault Refusal :=
  whenIdle s fun s => respondOk [] { s with regs := runResolve s.regs }

/-- `Select(c, mode)` (R156): BGRPACK for BGR24, else STACK for Stacked, else BLIT. -/
def selectTranscoder (c mode : Word) : Transcoder :=
  if c = 13 then .bgrpack else if mode = 2 then .stack else .blit

/-- The flip bit (R158): a BLIT into BGR32 with `BGR32_FLIP` = 1. -/
def flipBit (bgr32Flip : Bool) (sel : Transcoder) (c : Word) : Bool :=
  decide (sel = .blit) && decide (c = 14) && bgr32Flip

/-- `x[XSEL] <- sel + 4 * flip` (R159). -/
def runSelect (bgr32Flip : Bool) (f : RegFile) : RegFile :=
  let sel := selectTranscoder f.cFmt f.pmode
  { f with xsel := sel.code + (if flipBit bgr32Flip sel f.cFmt then 4 else 0) }

/-- SELECT (R159). -/
def execSelect (s : State) : Host.Outcome State Fault Refusal :=
  whenIdle s fun s => respondOk [] { s with regs := runSelect s.platform.bgr32Flip s.regs }

/-- `sw(ss)`: the chroma width shift (R161); only classes 0 to 4 are legal. -/
def chromaShiftW (ss : Word) : Nat := if ss = 2 then 1 else if ss = 3 then 1 else if ss = 4 then 2 else 0

/-- `sh(ss)`: the chroma height shift (R161). -/
def chromaShiftH (ss : Word) : Nat := if ss = 3 then 1 else 0

/-- The copy geometry of one plane (R160): width in samples `w_p`, row count `rows_p`, source row bytes `srcRowBytes_p`. -/
structure PlaneGeometry where
  width : Word
  rows : Word
  rowBytes : Word
deriving DecidableEq, Repr

/-- The per-plane copy geometry (R160), products modulo 2^32 (U6), shifts as floors (R161, U7). -/
def planeGeometry (f : RegFile) (p : Plane) : PlaneGeometry :=
  if f.cFmt = 14 then { width := f.pWidth, rows := f.pHeight, rowBytes := f.pWidth * 4 }
  else if f.cFmt = 15 then { width := f.pWidth, rows := f.pHeight, rowBytes := f.pWidth * 2 }
  else
    let w := if p = 0 then f.pWidth else f.pWidth >>> chromaShiftW f.pSs
    let rows := if p = 0 then f.pHeight else f.pHeight >>> chromaShiftH f.pSs
    { width := w, rows := rows, rowBytes := w * f.pBps }

/-- The destination row length of BGRPACK in bytes, `u32(3 * W)` (R160; U6: the product modulo 2^32, no error). -/
def bgrRowBytes (f : RegFile) : Word := 3 * f.pWidth

end Sys2Proof.Machine
end

