-- ==== Sys2Proof/Machine/Transcoders.lean ====
section
/-! DEFINITION. The transcoders BLIT, STACK, BGRPACK and the command CONVERT (spec/43_transcoders.md R170 to R186): their
parameter checks, their moves in the canonical order, and the lane form of the stacked-pack engine. -/

namespace Sys2Proof.Machine

/-! ### Parameter checks (R171) -/

/-- `BlitParamsOk` (R171). -/
def blitParamsOk (f : RegFile) : Bool :=
  (f.pPlanes == 1 || f.pPlanes == 3) && legalBps f.pBps && legalSs f.pSs && f.cFmt != 0 &&
    (!(f.cFmt == 14 || f.cFmt == 15) || f.pPlanes == 1)

/-- `StackParamsOk` (R171): an 8-bit, non-packed consumer format. -/
def stackParamsOk (f : RegFile) : Bool :=
  (f.pPlanes == 1 || f.pPlanes == 3) && f.pBps == 2 && legalSs f.pSs &&
    (f.cFmt == 1 || f.cFmt == 3 || f.cFmt == 4 || f.cFmt == 5 || f.cFmt == 6)

/-- `BgrParamsOk` (R171). -/
def bgrParamsOk (f : RegFile) : Bool := f.pPlanes == 3 && f.pBps == 1 && f.pSs == 0 && f.cFmt == 13

/-- The checks of one transcoder (R171). -/
def transcoderParamsOk (f : RegFile) : Transcoder → Bool
  | .blit => blitParamsOk f
  | .stack => stackParamsOk f
  | .bgrpack => bgrParamsOk f

/-- `ConvertParamsOk` (R171, last row): `XSEL.SEL` names a transcoder and its checks pass. -/
def convertParamsOk (f : RegFile) : Bool := (transcoderOf (xselSel f)).any (transcoderParamsOk f)

/-! ### The bodies as moves in the canonical order (20_memory.md R69) -/

/-- The planes a planar transcoder works on: `0 .. P_PLANES - 1`. -/
def planesOf (f : RegFile) : List Plane := planesBelow f.pPlanes.toNat

/-- The destination row of source row `y` of a blit (R172): reversed when `XSEL.FLIP` is 1 (R173). -/
def blitRow (flip : Bool) (rows y : Nat) : Nat := if flip then rows - 1 - y else y

/-- The moves of one row of BLIT (R172). -/
def blitRowMoves (f : RegFile) (p : Plane) (y : Nat) : List Move :=
  let g := planeGeometry f p
  let sa := rowAddr (srcPlane f p) y
  let da := rowAddr (dstPlane f p) (blitRow (xselFlip f) g.rows.toNat y)
  (List.range g.rowBytes.toNat).map fun k => .copy (byteAddr sa k) (byteAddr da k)

/-- `BlitBody` (R172). -/
def blitMoves (f : RegFile) : List Move :=
  (planesOf f).flatMap fun p => (List.range (planeGeometry f p).rows.toNat).flatMap fun y => blitRowMoves f p y

/-- The moves of one row of STACK (R176): MSB to row `y`, LSB to row `y + rows_p`. -/
def stackRowMoves (f : RegFile) (p : Plane) (y : Nat) : List Move :=
  let g := planeGeometry f p
  let sa := rowAddr (srcPlane f p) y
  let dt := rowAddr (dstPlane f p) y
  let db := rowAddr (dstPlane f p) (y + g.rows.toNat)
  (List.range g.width.toNat).map fun i => .split (byteAddr sa (2 * i)) (byteAddr dt i) (byteAddr db i)

/-- `StackBody` (R176). -/
def stackMoves (f : RegFile) : List Move :=
  (planesOf f).flatMap fun p => (List.range (planeGeometry f p).rows.toNat).flatMap fun y => stackRowMoves f p y

/-- The move of pixel `i` of row `y` of BGRPACK (R183): source row `y` to stored row `H - 1 - y`. The destination row is
`u32(3 * W)` bytes long (42_geometry_and_select.md R160, U6): the bytes of a pixel at an offset from there on are not written.
Log entry 10. -/
def bgrPixelMove (f : RegFile) (y i : Nat) : Move :=
  .triplet (byteAddr (rowAddr (srcPlane f 0) y) i) (byteAddr (rowAddr (srcPlane f 1) y) i)
    (byteAddr (rowAddr (srcPlane f 2) y) i) (byteAddr (rowAddr (dstPlane f 0) (f.pHeight.toNat - 1 - y)) (3 * i))
    ((bgrRowBytes f).toNat - 3 * i)

/-- The moves of one row of BGRPACK (R183). -/
def bgrRowMoves (f : RegFile) (y : Nat) : List Move := (List.range f.pWidth.toNat).map (bgrPixelMove f y)

/-- `BgrBody` (R183). -/
def bgrMoves (f : RegFile) : List Move :=
  (List.range f.pHeight.toNat).flatMap fun y => bgrRowMoves f y

/-- The moves of one transcoder. -/
def transcoderMoves (f : RegFile) : Transcoder → List Move
  | .blit => blitMoves f
  | .stack => stackMoves f
  | .bgrpack => bgrMoves f

/-- `ConvertBody` (R185): the dispatch is on the register, not recomputed from the format. -/
def convertBody (s : State) : Option ErrCode × State :=
  match transcoderOf (xselSel s.regs) with
  | none => (some .param, s)
  | some .blit => if blitParamsOk s.regs then transfer (blitMoves s.regs) s else (some .param, s)
  | some .stack => if stackParamsOk s.regs then transfer (stackMoves s.regs) s else (some .param, s)
  | some .bgrpack => if bgrParamsOk s.regs then transfer (bgrMoves s.regs) s else (some .param, s)

/-! ### The commands -/

/-- BLIT (R172): it ignores `XSEL.SEL` and `PMODE`. -/
def execBlit (s : State) : Host.Outcome State Fault Refusal :=
  whenIdle s fun s =>
    if blitParamsOk s.regs then endTransfer (transfer (blitMoves s.regs) s) else raise .param s

/-- STACK (R176): it ignores `XSEL`, `PMODE` and `CTRL.STACKED_REQ`. -/
def execStack (s : State) : Host.Outcome State Fault Refusal :=
  whenIdle s fun s =>
    if stackParamsOk s.regs then endTransfer (transfer (stackMoves s.regs) s) else raise .param s

/-- BGRPACK (R183): it ignores `XSEL`; the row reversal is built in. -/
def execBgrpack (s : State) : Host.Outcome State Fault Refusal :=
  whenIdle s fun s =>
    if bgrParamsOk s.regs then endTransfer (transfer (bgrMoves s.regs) s) else raise .param s

/-- CONVERT (R185): the transcoder `XSEL.SEL` names. -/
def execConvert (s : State) : Host.Outcome State Fault Refusal :=
  whenIdle s fun s => endTransfer (convertBody s)

/-! ### The lane form of the stacked-pack engine (R177 to R181) -/

/-- `pack` by truncation: the low byte of a 16-bit element (R177). -/
def packTruncate (v : Sample) : Byte := v.setWidth 8

/-- `pack` by saturation: 255 for every element above 255 (R178). -/
def packSaturate (v : Sample) : Byte := if v.toNat ≤ 255 then v.setWidth 8 else 255

/-- The MSB lane by "shift-and-pack" (R177). -/
def msbLane (pack : Sample → Byte) (lane : List Sample) : List Byte := lane.map fun (s : Sample) => pack (s >>> 8)

/-- The LSB lane by "mask-and-pack" (R177). -/
def lsbLane (pack : Sample → Byte) (lane : List Sample) : List Byte := lane.map fun (s : Sample) => pack (s &&& 0x00FF)

/-- The scalar path: the per-sample function of R174 on every sample. -/
def scalarRow (row : List Sample) : List Byte × List Byte := (row.map sampleMsb, row.map sampleLsb)

/-- `k` lanes of `lane` samples, then the scalar fallback for the rest of the row (R179). -/
def laneRow (pack : Sample → Byte) (lane : Nat) : Nat → List Sample → List Byte × List Byte
  | 0, row => scalarRow row
  | k + 1, row =>
    let rest := laneRow pack lane k (row.drop lane)
    (msbLane pack (row.take lane) ++ rest.1, lsbLane pack (row.take lane) ++ rest.2)

/-- One row through an engine of `lane` samples per lane: the MSB bytes and the LSB bytes (R177, R179, R181). -/
def engineRow (pack : Sample → Byte) (lane : Nat) (row : List Sample) : List Byte × List Byte :=
  laneRow pack lane (row.length / lane) row

/-- `Unstack(m, l) = 256 * m + l`, the inverse of the split (R175); it is no command (90_conflicts.md C1). -/
def unstack (m l : Byte) : Sample := m ++ l

end Sys2Proof.Machine
end

