-- ==== Sys2Proof/Machine/Session.lean ====
section
/-! DEFINITION. The session control unit (spec/44_session.md R200 to R216): OPEN with its procedures Acquire,
LoadDescriptor, Validate, MakeReady and Fail; GETGEOM; GETFRAME; CLOSE. The inner phases VALIDATED, FETCHING, CONVERTING and
DONE are written where the pseudocode writes them and are not visible at a command boundary (R200, 00_scope.md R9). -/

namespace Sys2Proof.Machine

/-- Apply a change to the register file. -/
def onRegs (g : RegFile → RegFile) (s : State) : State := { s with regs := g s.regs }

/-! ### OPEN -/

/-- The eight resolved session registers set to 0 (R201, R207). -/
def clearResolved (f : RegFile) : RegFile :=
  { f with cFmt := 0, pmode := 0, xsel := 0, cWidth := 0, cHeight := 0, cFrames := 0, cFpsnum := 0, cFpsden := 0 }

/-- The first writes of OPEN (R201): DIAG, ERR, the resolved registers and the handles to 0. -/
def clearForOpen (f : RegFile) : RegFile :=
  { clearResolved (setErr 0 { f with diag := 0 }) with ctxH := 0, nodeH := 0, frameH := 0, dstH := 0 }

/-- `Acquire` (R202): engine, context, node, or the error with which the construction fails. -/
def acquire (s : State) : Except (ErrCode × State) State :=
  match callInitializeEngine s with
  | (false, s) => .error (.engineInit, s)
  | (true, s) =>
    let s := onRegs (setHaveEngine true) s
    match callEvaluate s.regs.scriptRef (ctrlInline s.regs) s with
    | (.err d, s) => .error (.scriptEval, onRegs (fun f => { f with diag := d }) s)
    | (.ok c, s) =>
      let s := onRegs (fun f => setHaveCtx true { f with ctxH := c }) s
      match callGetOutputNode s.regs.ctxH (ctrlOutidx s.regs) s with
      | (none, s) => .error (.noOutputNode, s)
      | (some nd, s) => .ok (onRegs (fun f => setHaveNode true { f with nodeH := nd }) s)

/-- The descriptor stored unchanged in the twelve `P_*` registers (R204). -/
def storeDescriptor (d : Descriptor) (f : RegFile) : RegFile :=
  { f with pFmt := d.fmt, pBps := d.bps, pPlanes := d.planes, pSs := d.ss, pPacked := d.packed, pWidth := d.width,
           pHeight := d.height, pFrames := d.frames,
           pFpsnumLo := d.fpsnum.extractLsb' 0 32, pFpsnumHi := d.fpsnum.extractLsb' 32 32,
           pFpsdenLo := d.fpsden.extractLsb' 0 32, pFpsdenHi := d.fpsden.extractLsb' 32 32 }

/-- `LoadDescriptor` (R204). -/
def loadDescriptor (s : State) : State :=
  match callGetFormatDescriptor s.regs.nodeH s with
  | (d, s) => onRegs (storeDescriptor d) s

/-- `Validate` (R205): the five checks in order; the fifth writes C_FMT. -/
def validate (f : RegFile) : Option ErrCode × RegFile :=
  if signed32 f.pFrames ≤ 0 then (some .length, f)
  else if f.pWidth = 0 ∨ f.pHeight = 0 ∨ f.pFmt = 0 then (some .variableFormat, f)
  else if fpsNum f = 0 ∨ fpsDen f = 0 then (some .variableFps, f)
  else if f.pFpsnumHi ≠ 0 ∨ f.pFpsdenHi ≠ 0 then (some .fpsRange, f)
  else
    let f := runMap f
    if f.cFmt = 0 then (some .unsupportedFormat, f) else (none, f)

/-- `MakeReady` (R206): what RESOLVE and SELECT do in direct mode; it cannot fail. -/
def makeReady (bgr32Flip : Bool) (f : RegFile) : RegFile := runSelect bgr32Flip (runResolve f)

/-- Release the node if one is held (R207). -/
def unwindNode (s : State) : State :=
  if haveNode s.regs then onRegs (fun f => { setHaveNode false f with nodeH := 0 }) (callReleaseNode s.regs.nodeH s)
  else s

/-- Release the context if one is held (R207). -/
def unwindCtx (s : State) : State :=
  if haveCtx s.regs then onRegs (fun f => { setHaveCtx false f with ctxH := 0 }) (callReleaseContext s.regs.ctxH s)
  else s

/-- Give back the engine reference if one is held (R207, R203). -/
def unwindEngine (s : State) : State :=
  if haveEngine s.regs then onRegs (setHaveEngine false) (callEngineRelease s) else s

/-- `Fail(e)` (R207): release node, context and engine, clear the resolved registers, record the error, phase FAILED. -/
def failOpen (e : ErrCode) (s : State) : State :=
  let s := unwindEngine (unwindCtx (unwindNode s))
  raise e (onRegs (fun f => setPhase .failed (setErr e.code (clearResolved f))) s)

/-- The body of OPEN after its phase check (R201). -/
def openBody (s : State) : State :=
  match acquire (onRegs clearForOpen s) with
  | .error (e, s) => failOpen e s
  | .ok s =>
    let s := loadDescriptor s
    match validate s.regs with
    | (some e, f) => failOpen e { s with regs := f }
    | (none, f) =>
      let s := onRegs (setPhase .validated) { s with regs := f }
      let s := onRegs (makeReady s.platform.bgr32Flip) s
      respondOk [] (onRegs (setPhase .ready) s)

/-- OPEN (R201): `E_STATE` in READY, where the open session is untouched. -/
def execOpenSession (s : State) : Host.Outcome State Fault Refusal :=
  if inSession s.regs then .next (raise .state s) else afterCalls s (openBody s)

/-! ### GETGEOM -/

/-- GETGEOM (R209): the six words of the resolved geometry; `E_STATE` where there is no session. -/
def execGetgeom (s : State) : Host.Outcome State Fault Refusal :=
  if inSession s.regs then
    .next (respondOk [s.regs.cWidth, s.regs.cHeight, s.regs.cFrames, s.regs.cFpsnum, s.regs.cFpsden, s.regs.cFmt] s)
  else .next (raise .state s)

/-! ### GETFRAME -/

/-- `ReleaseFrame` (R210). -/
def releaseFrame (s : State) : State :=
  onRegs (fun f => { setHaveFrame false f with frameH := 0 }) (callReleaseFrame s.regs.frameH s)

/-- One plane of an allocation (10_state.md R46). -/
def allocationPlane (al : Allocation) : Plane → PlaneRef
  | 0 => al.plane0
  | 1 => al.plane1
  | 2 => al.plane2

/-- The buffer's handle and its first `nDst(x[C_FMT])` planes (R210, R212); the others are ignored. -/
def storeAllocation (al : Allocation) (f : RegFile) : RegFile :=
  (planesBelow (nDst f.cFmt)).foldl (fun f p => setDstPlane f p (allocationPlane al p)) { f with dstH := al.dst }

/-- `getPlaneData` for one plane of the producer's frame (R210). -/
def fetchPlane (s : State) (p : Plane) : State :=
  match callGetPlaneData s.regs.frameH p s with
  | (v, s) => onRegs (fun f => setSrcPlane f p v) s

/-- `getPlaneData` for every source plane in ascending order (R210). -/
def fetchPlanes (s : State) : State := (planesOf s.regs).foldl fetchPlane s

/-- The body of GETFRAME after its checks (R210). -/
def getframeBody (n : Word) (s : State) : State :=
  let s := onRegs (setPhase .fetching) s
  match callGetFrame s.regs.nodeH n s with
  | (none, s) => raise .fetch (onRegs (setPhase .ready) s)
  | (some fr, s) =>
    let s := onRegs (fun f => setHaveFrame true { f with frameH := fr }) s
    match callAllocFrame s.regs.cFmt s.regs.cWidth s.regs.cHeight s with
    | (none, s) => raise .alloc (onRegs (setPhase .ready) (releaseFrame s))
    | (some al, s) =>
      let s := fetchPlanes (onRegs (storeAllocation al) s)
      let s := onRegs (setPhase .converting) s
      match convertBody s with
      | (some e, s) => raise e (onRegs (setPhase .ready) (releaseFrame s))
      | (none, s) =>
        let s := onRegs (setPhase .done) (releaseFrame s)
        let s := onRegs (setPhase .ready) s
        respondOk [s.regs.dstH] s

/-- GETFRAME n (R210): `E_STATE` outside a session, `E_PARAM` before any call; the frame index is passed on unchecked
(R211). -/
def execGetframe (n : Word) (s : State) : Host.Outcome State Fault Refusal :=
  if inSession s.regs then
    if convertParamsOk s.regs then afterCalls s (getframeBody n s) else .next (raise .param s)
  else .next (raise .state s)

/-! ### CLOSE -/

/-- The releases of CLOSE in the order node, context, engine (R214). -/
def closeReleases (s : State) : State :=
  let s := if haveNode s.regs then callReleaseNode s.regs.nodeH s else s
  let s := if haveCtx s.regs then callReleaseContext s.regs.ctxH s else s
  if haveEngine s.regs then callEngineRelease s else s

/-- Every register except CTRL and SCRIPT_REF to 0 (R214). -/
def clearForClose (f : RegFile) : RegFile := { RegFile.zero with ctrl := f.ctrl, scriptRef := f.scriptRef }

/-- The body of CLOSE (R214). -/
def closeBody (s : State) : State := respondOk [] (onRegs clearForClose (closeReleases s))

/-- CLOSE (R214): accepted in every phase, idempotent (R215). -/
def execClose (s : State) : Host.Outcome State Fault Refusal := afterCalls s (closeBody s)

end Sys2Proof.Machine
end

