-- ==== Sys2Proof/Machine/Dispatch.lean ====
section
/-! DEFINITION. One arm per command (spec/30_encoding.md R93), each one call of its meaning. -/

namespace Sys2Proof.Machine

/-- The meaning of a command, from the state before it to the state after its response (00_scope.md R9). -/
def exec (i : Instr) (s : State) : Host.Outcome State Fault Refusal :=
  match i with
  | .nop => Sys2Proof.Machine.execNop s
  | .setr ra imm => Sys2Proof.Machine.execSetr ra imm s
  | .rdr ra => Sys2Proof.Machine.execRdr ra s
  | .openSession => Sys2Proof.Machine.execOpenSession s
  | .getgeom => Sys2Proof.Machine.execGetgeom s
  | .getframe n => Sys2Proof.Machine.execGetframe n s
  | .close => Sys2Proof.Machine.execClose s
  | .map => Sys2Proof.Machine.execMap s
  | .resolve => Sys2Proof.Machine.execResolve s
  | .select => Sys2Proof.Machine.execSelect s
  | .blit => Sys2Proof.Machine.execBlit s
  | .stack => Sys2Proof.Machine.execStack s
  | .bgrpack => Sys2Proof.Machine.execBgrpack s
  | .convert => Sys2Proof.Machine.execConvert s

end Sys2Proof.Machine
end

