-- ==== Sys2Proof/Machine/Step.lean ====
section
/-! DEFINITION. One step: one command word from the host's list, executed to its response (spec/00_scope.md R9, R11,
30_encoding.md R96, R99). -/

namespace Sys2Proof.Machine

/-- The end of a step that executed a command: the index advances by 1 (10_state.md R21). -/
def stepEnd : Host.Outcome State Fault Refusal → Host.Outcome State Fault Refusal
  | .next t => .next (advance t)
  | .fault r => .fault r
  | .refused r => .refused r

/-- One command word: an illegal word is answered with `E_ILLEGAL_CMD` and changes nothing else (R95); a legal one is
executed. -/
def stepWord (w : CommandWord) (s : State) : Host.Outcome State Fault Refusal :=
  match decode w with
  | .error _ => stepEnd (.next (raise .illegalCmd s))
  | .ok i => stepEnd (exec i s)

/-- One step. At the end of the host's list no word is presented, and the PFC, which never stops by itself, stays as it is
(00_scope.md R12; log entry 2). -/
def step (s : State) : Host.Outcome State Fault Refusal :=
  match fetchWord s with
  | none => .next s
  | some w => stepWord w s

/-- The state with the command of bits `w` as the word the next step reads; bits from `nbits` on are 0. It stands for the
host presenting that word (log entry 3). -/
def State.withFetchWord (s : State) (nbits w : Nat) : State := placeWord s (BitVec.ofNat 64 (w % 2 ^ nbits))

end Sys2Proof.Machine
end

