-- ==== Sys2Proof/Machine/Assembler.lean ====
section
/-! DEFINITION. The assembler of spec/30_encoding.md R100 and R101: lines and pseudo-instructions to commands, and the text
form of a line. It stands beside the machine: the hardware knows only the expansions. -/

namespace Sys2Proof.Machine

/-- A register operand as the 8 bits of `RA` (R100). -/
def asmRegIndex : AsmReg → BitVec 8
  | .name r => regIndex r
  | .number n => BitVec.ofNat 8 n

/-- `SETR reg, imm` for a register by name. -/
def asmSet (r : Reg) (imm : Int) : Instr := .setr (regIndex r) (u32 imm)

/-- `SRC_BASEp` and `SRC_STRIDEp`, `p` in 0..2 (10_state.md R40). -/
def srcRegs (p : Nat) : Reg × Reg :=
  if p = 0 then (.srcBase0, .srcStride0) else if p = 1 then (.srcBase1, .srcStride1) else (.srcBase2, .srcStride2)

/-- `DST_BASEp` and `DST_STRIDEp`, `p` in 0..2 (10_state.md R40). -/
def dstRegs (p : Nat) : Reg × Reg :=
  if p = 0 then (.dstBase0, .dstStride0) else if p = 1 then (.dstBase1, .dstStride1) else (.dstBase2, .dstStride2)

/-- The commands of a well-formed line: itself (R100), or its expansion (R101). -/
def expand : Asm → List Instr
  | .nop => [.nop]
  | .setr reg imm => [.setr (asmRegIndex reg) (u32 imm)]
  | .rdr reg => [.rdr (asmRegIndex reg)]
  | .openSession => [.openSession]
  | .getgeom => [.getgeom]
  | .getframe imm => [.getframe (u32 imm)]
  | .close => [.close]
  | .map => [.map]
  | .resolve => [.resolve]
  | .select => [.select]
  | .blit => [.blit]
  | .stack => [.stack]
  | .bgrpack => [.bgrpack]
  | .convert => [.convert]
  | .setdesc fmt bps planes ss packed w h =>
      [asmSet .pFmt fmt, asmSet .pBps bps, asmSet .pPlanes planes, asmSet .pSs ss, asmSet .pPacked packed,
        asmSet .pWidth w, asmSet .pHeight h]
  | .setrate frames num den =>
      [asmSet .pFrames frames, asmSet .pFpsnumLo (num % 2 ^ 32 : Nat), asmSet .pFpsnumHi (num / 2 ^ 32 : Nat),
        asmSet .pFpsdenLo (den % 2 ^ 32 : Nat), asmSet .pFpsdenHi (den / 2 ^ 32 : Nat)]
  | .setsrc p base stride => [asmSet (srcRegs p).1 base, asmSet (srcRegs p).2 stride]
  | .setdst p base stride => [asmSet (dstRegs p).1 base, asmSet (dstRegs p).2 stride]
  | .prep => [.map, .resolve, .select]
  | .opensrc ref ctrl => [asmSet .scriptRef ref, asmSet .ctrl ctrl, .openSession]

/-- The words of a line; none where the line is not well formed. -/
def assemble (l : Asm) : Option (List CommandWord) := if l.wellFormed then some ((expand l).map encode) else none

/-! ### The text of a line (R100). Log entry 11. -/

/-- Characters that separate tokens. -/
def isBlank (c : Char) : Bool := c == ' ' || c == '\t'

/-- Without the blanks at both ends. -/
def trimBlanks (cs : List Char) : List Char := ((cs.dropWhile isBlank).reverse.dropWhile isBlank).reverse

/-- "Text from `;` to the end of a line is a comment" (R100). -/
def withoutComment (cs : List Char) : List Char := cs.takeWhile (fun c => c != ';')

/-- The parts of a text between commas, blanks trimmed. -/
def splitCommas : List Char → List (List Char)
  | [] => [[]]
  | c :: rest =>
    let tail := splitCommas rest
    if c == ',' then [] :: tail
    else match tail with
      | [] => [[c]]
      | t :: ts => (c :: t) :: ts

/-- The value of a decimal digit. -/
def decDigit (c : Char) : Option Nat :=
  if '0'.toNat ≤ c.toNat && c.toNat ≤ '9'.toNat then some (c.toNat - '0'.toNat) else none

/-- The value of a hexadecimal digit, either case. -/
def hexDigit (c : Char) : Option Nat :=
  match decDigit c with
  | some d => some d
  | none =>
    if 'A'.toNat ≤ c.toNat && c.toNat ≤ 'F'.toNat then some (c.toNat - 'A'.toNat + 10)
    else if 'a'.toNat ≤ c.toNat && c.toNat ≤ 'f'.toNat then some (c.toNat - 'a'.toNat + 10)
    else none

/-- The number of a non-empty run of digits. -/
def digitsValue (base : Nat) (digit : Char → Option Nat) (acc : Nat) : List Char → Option Nat
  | [] => some acc
  | c :: rest =>
    match digit c with
    | none => none
    | some d => digitsValue base digit (acc * base + d) rest

/-- "A decimal number, a hexadecimal number with prefix `0x`" (R100). -/
def parseNat : List Char → Option Nat
  | [] => none
  | '0' :: 'x' :: rest => if rest.isEmpty then none else digitsValue 16 hexDigit 0 rest
  | cs => digitsValue 10 decDigit 0 cs

/-- "or a negative decimal number `-k`" (R100). -/
def parseInt : List Char → Option Int
  | '-' :: rest => if rest.isEmpty then none else (digitsValue 10 decDigit 0 rest).map (fun k => -(k : Int))
  | cs => (parseNat cs).map (fun k => (k : Int))

/-- A register name, or a number (R100). -/
def parseReg (cs : List Char) : Option AsmReg :=
  match allRegs.find? (fun r => (regName r).toList == cs) with
  | some r => some (.name r)
  | none => (parseNat cs).map AsmReg.number

/-- Every text parsed as an `imm`, or none. -/
def parseInts : List (List Char) → Option (List Int)
  | [] => some []
  | c :: rest => (parseInt c).bind fun v => (parseInts rest).map fun vs => v :: vs

/-- A mnemonic with its operands (R100, R101). -/
def parseOperands (mnemonic : List Char) (ops : List (List Char)) : Option Asm :=
  let m (s : String) : Bool := mnemonic == s.toList
  match ops with
  | [] =>
    if m "NOP" then some .nop else if m "OPEN" then some .openSession else if m "GETGEOM" then some .getgeom
    else if m "CLOSE" then some .close else if m "MAP" then some .map else if m "RESOLVE" then some .resolve
    else if m "SELECT" then some .select else if m "BLIT" then some .blit else if m "STACK" then some .stack
    else if m "BGRPACK" then some .bgrpack else if m "CONVERT" then some .convert else if m "PREP" then some .prep
    else none
  | [a] =>
    if m "RDR" then (parseReg a).map Asm.rdr else if m "GETFRAME" then (parseInt a).map Asm.getframe else none
  | [a, b] =>
    if m "SETR" then (parseReg a).bind fun r => (parseInt b).map fun v => .setr r v
    else if m "OPENSRC" then (parseInt a).bind fun r => (parseInt b).map fun v => .opensrc r v
    else none
  | [a, b, c] =>
    if m "SETRATE" then
      (parseInt a).bind fun f => (parseNat b).bind fun n => (parseNat c).map fun d => .setrate f n d
    else if m "SETSRC" then
      (parseNat a).bind fun p => (parseInt b).bind fun x => (parseInt c).map fun y => .setsrc p x y
    else if m "SETDST" then
      (parseNat a).bind fun p => (parseInt b).bind fun x => (parseInt c).map fun y => .setdst p x y
    else none
  | _ =>
    match parseInts ops with
    | some [f, b, p, s, k, w, h] => if m "SETDESC" then some (.setdesc f b p s k w h) else none
    | _ => none

/-- The line a text stands for: `MNEMONIC` and its operands separated by commas (R100). -/
def parseLine (text : List Char) : Option Asm :=
  let cs := trimBlanks (withoutComment text)
  let mnemonic := cs.takeWhile (fun c => !isBlank c)
  let rest := trimBlanks (cs.dropWhile (fun c => !isBlank c))
  parseOperands mnemonic (if rest.isEmpty then [] else (splitCommas rest).map trimBlanks)

end Sys2Proof.Machine
end

