-- ==== Sys2Proof/Safety.lean ====
section
/-! DEFINITION. What counts as a safe state and a safe run, in the terms the claims use: the invariants of a command boundary
(spec/44_session.md R216, 10_state.md R23, R25, R35 to R37, R43) and the ledger of handles that the trace must balance. -/

namespace Sys2Proof.Safety

open Sys2Proof.Machine

/-- Reserved bits read 0: CTRL bits 7:3 and 31:16 (R23), STATUS bits 7 and 31:16 (R25), C_FMT bits 31:4 (R35); PMODE is a
packing mode (R36); XSEL is a transcoder, with FLIP only on BLIT (R37). -/
def RegistersWellFormed (f : RegFile) : Prop :=
  f.ctrl &&& 0x0000FF07 = f.ctrl ∧
  bits f.status 7 1 = 0 ∧ bits f.status 16 16 = 0 ∧
  f.cFmt.toNat < 16 ∧ f.pmode.toNat < 3 ∧
  (f.xsel = 0 ∨ f.xsel = 1 ∨ f.xsel = 2 ∨ f.xsel = 4)

/-- At a command boundary PHASE is UNINIT, READY or FAILED (R43). -/
def BoundaryPhase (f : RegFile) : Prop :=
  phaseBits f = Phase.uninit.code ∨ phaseBits f = Phase.ready.code ∨ phaseBits f = Phase.failed.code

/-- ERR holds an OPEN error (1 to 8) exactly in FAILED (R25), and DIAG is 0 unless that error is `E_SCRIPT_EVAL` (R26). -/
def ErrorFieldsConsistent (f : RegFile) : Prop :=
  (phaseBits f = Phase.failed.code → 1 ≤ (errBits f).toNat ∧ (errBits f).toNat ≤ 8) ∧
  (phaseBits f ≠ Phase.failed.code → errBits f = 0) ∧
  (errBits f ≠ ErrCode.scriptEval.code → f.diag = 0)

/-- What MAP, RESOLVE and SELECT would compute from the registers (R216 c). -/
def resolvedFrom (bgr32Flip : Bool) (f : RegFile) : RegFile := runSelect bgr32Flip (runResolve (runMap f))

/-- The ownership invariants of R216 (a), (b), (c): no frame is held; idle holds nothing; a session holds engine, context
and node, and its resolved registers are those of its descriptor. -/
def OwnershipAtBoundary (bgr32Flip : Bool) (f : RegFile) : Prop :=
  haveFrame f = false ∧ f.frameH = 0 ∧
  (phaseBits f ≠ Phase.ready.code →
    haveEngine f = false ∧ haveCtx f = false ∧ haveNode f = false ∧ f.ctxH = 0 ∧ f.nodeH = 0) ∧
  (phaseBits f = Phase.ready.code →
    haveEngine f = true ∧ haveCtx f = true ∧ haveNode f = true ∧ f.cFmt ≠ 0 ∧ resolvedFrom bgr32Flip f = f)

/-- What the PFC holds on the environment's side. -/
structure Ledger where
  engine : Bool
  ctx : Option Word
  node : Option Word
  frame : Option Word
deriving DecidableEq, Repr

/-- Nothing held. -/
def Ledger.empty : Ledger := { engine := false, ctx := none, node := none, frame := none }

/-- One call against the ledger: none where the call breaks the pairing or the release order of R216 (d), (e). A handle is
obtained only when none of its kind is held, used and released only while it is held, and released in the order frame,
node, context, engine. -/
def ledgerStep (l : Ledger) : EnvEvent → Option Ledger
  | .initializeEngine ok => if l = Ledger.empty then some { l with engine := ok } else none
  | .evaluate _ _ r =>
    if l.engine ∧ l.ctx = none then
      match r with
      | .ok c => some { l with ctx := some c }
      | .err _ => some l
    else none
  | .getOutputNode c _ r => if l.ctx = some c ∧ l.node = none then some { l with node := r } else none
  | .getFormatDescriptor n _ => if l.node = some n then some l else none
  | .getFrame n _ r => if l.node = some n ∧ l.frame = none then some { l with frame := r } else none
  | .getPlaneData fr _ _ => if l.frame = some fr then some l else none
  | .releaseFrame fr => if l.frame = some fr then some { l with frame := none } else none
  | .releaseNode n => if l.node = some n ∧ l.frame = none then some { l with node := none } else none
  | .releaseContext c => if l.ctx = some c ∧ l.node = none then some { l with ctx := none } else none
  | .engineRelease => if l.engine ∧ l.ctx = none then some { l with engine := false } else none
  | .allocFrame _ _ _ _ => if l.frame = none then none else some l

/-- The ledger after a list of calls. -/
def ledgerRun (l : Ledger) : List EnvEvent → Option Ledger
  | [] => some l
  | e :: rest => (ledgerStep l e).bind (fun l' => ledgerRun l' rest)

/-- What the registers say the PFC holds (10_state.md R25, R39). -/
def heldBy (f : RegFile) : Ledger :=
  { engine := haveEngine f,
    ctx := if haveCtx f then some f.ctxH else none,
    node := if haveNode f then some f.nodeH else none,
    frame := if haveFrame f then some f.frameH else none }

/-- The trace since reset is balanced but for what the registers say is held (R216 d, e): no handle is leaked. -/
def TraceBalanced (s : State) : Prop := ledgerRun Ledger.empty s.trace = some (heldBy s.regs)

/-- The register part of the invariant of a command boundary. -/
def BoundaryRegisters (bgr32Flip : Bool) (f : RegFile) : Prop :=
  RegistersWellFormed f ∧ BoundaryPhase f ∧ ErrorFieldsConsistent f ∧ OwnershipAtBoundary bgr32Flip f

/-- The invariant of a command boundary. -/
def Inv (s : State) : Prop := s.mem.wf ∧ BoundaryRegisters s.platform.bgr32Flip s.regs ∧ TraceBalanced s

/-- No call will be left unanswered (70_reset_and_hazards.md R268: an `Env` that is a total function). -/
def EnvAnswers (s : State) : Prop := s.env.stallAt = none

/-- Every access of a transcoder command is admitted (20_memory.md R62). -/
def AllAdmitted (pl : Platform) (ms : List Move) : Prop :=
  (∀ a ∈ sourceBytes ms, admits pl a .r = true) ∧ ∀ a ∈ destBytes ms, admits pl a .w = true

/-- The premises (a) and (b) of 20_memory.md R68; in (b) every byte a command reads is a source byte (log entry 19). -/
def PlanesDisjoint (ms : List Move) : Prop := rowsDisjoint ms = true ∧ srcDstDisjoint ms = true

/-- The premise `GeomFits` (42_geometry_and_select.md R154). -/
def GeomFits (f : RegFile) : Prop := 2 * f.pHeight.toNat < 2 ^ 32 ∧ f.pWidth.toNat * f.pBps.toNat < 2 ^ 32

/-- The premise `DimsAligned` (42_geometry_and_select.md R161). -/
def DimsAligned (f : RegFile) : Prop :=
  f.pWidth.toNat % 2 ^ chromaShiftW f.pSs = 0 ∧ f.pHeight.toNat % 2 ^ chromaShiftH f.pSs = 0

end Sys2Proof.Safety
end

