-- ==== Sys2Proof/Certificates/Slice0/Obligations.lean ====
section
/-! DEFINITION. The statements for the provers, from the numbered rules of spec/. Where a statement names a function of the
model, the function is the one the meaning uses; the bytes a transcoder stores to are computed by the same addresses. -/

open Sys2Proof Sys2Proof.Machine Sys2Proof.Safety

namespace Sys2Proof.Claims

/-- The state after a response `(code, data)` and nothing else. -/
def answered (code : BitVec 8) (data : List Word) (s : State) : State :=
  { s with responses := s.responses ++ [{ code := code, data := data }] }

/-- The word is answered with `E_ILLEGAL_CMD` (13) and the index advances; nothing else changes (30_encoding.md R95). -/
def AnsweredIllegal (w : CommandWord) : Prop :=
  ∀ s : State, fetchWord s = some w → step s = .next { answered 13 [] s with index := s.index + 1 }

/-- The command has exactly one word: `word` decodes to it, and every other word with its opcode is illegal (format N). -/
def OneWord (i : Instr) (word : CommandWord) : Prop :=
  decode word = .ok i ∧ ∀ w : CommandWord, w.extractLsb' 56 8 = word.extractLsb' 56 8 → w ≠ word → AnsweredIllegal w

/-- The table of R97: whether a phase accepts an opcode, for the three phases of a command boundary. -/
def phaseAccepts : Opcode → Phase → Bool
  | .nop, _ => true
  | .rdr, _ => true
  | .close, _ => true
  | .getgeom, p => decide (p = .ready)
  | .getframe, p => decide (p = .ready)
  | .setr, p => decide (p ≠ .ready)
  | .map, p => decide (p ≠ .ready)
  | .resolve, p => decide (p ≠ .ready)
  | .select, p => decide (p ≠ .ready)
  | .blit, p => decide (p ≠ .ready)
  | .stack, p => decide (p ≠ .ready)
  | .bgrpack, p => decide (p ≠ .ready)
  | .convert, p => decide (p ≠ .ready)
  | .openSession, p => decide (p ≠ .ready)

/-- Check (3) of R96: the register index of SETR and RDR. -/
def registerAccepted : Instr → Prop
  | .setr ra _ => ∃ r, regIndex r = ra ∧ hostWritable r = true
  | .rdr ra => ∃ r, regIndex r = ra
  | _ => True

/-- The BLIT row of the table of 43_transcoders.md R171. -/
def blitAccepted (f : RegFile) : Prop :=
  (f.pPlanes = 1 ∨ f.pPlanes = 3) ∧ (f.pBps = 1 ∨ f.pBps = 2 ∨ f.pBps = 4) ∧ f.pSs.toNat ≤ 4 ∧ f.cFmt ≠ 0 ∧
    (f.cFmt = 14 ∨ f.cFmt = 15 → f.pPlanes = 1)

/-- The STACK row of the table of R171. -/
def stackAccepted (f : RegFile) : Prop :=
  (f.pPlanes = 1 ∨ f.pPlanes = 3) ∧ f.pBps = 2 ∧ f.pSs.toNat ≤ 4 ∧ f.cFmt ∈ [(1 : Word), 3, 4, 5, 6]

/-- The BGRPACK row of the table of R171. -/
def bgrAccepted (f : RegFile) : Prop := f.pPlanes = 3 ∧ f.pBps = 1 ∧ f.pSs = 0 ∧ f.cFmt = 13

/-- The last row of the table of R171: `XSEL.SEL`, bits 1:0 (10_state.md R37), is 0, 1 or 2, and the checks of the transcoder
it selects pass. -/
def convertAccepted (f : RegFile) : Prop :=
  (f.xsel.extractLsb' 0 2 = 0 ∧ blitAccepted f) ∨ (f.xsel.extractLsb' 0 2 = 1 ∧ stackAccepted f) ∨
    (f.xsel.extractLsb' 0 2 = 2 ∧ bgrAccepted f)

/-- Check (4) of R96: the parameters of the transcoder commands and GETFRAME, by the table of 43_transcoders.md R171. -/
def parametersAccepted (f : RegFile) : Instr → Prop
  | .blit => blitAccepted f
  | .stack => stackAccepted f
  | .bgrpack => bgrAccepted f
  | .convert => convertAccepted f
  | .getframe _ => convertAccepted f
  | _ => True

/-- The table of 10_state.md section 3: the index of each of the 40 registers. -/
def registerTable : List (BitVec 8 × Reg) :=
  [ (0x00, .ctrl), (0x01, .scriptRef), (0x02, .status), (0x03, .diag), (0x10, .pFmt), (0x11, .pBps), (0x12, .pPlanes),
    (0x13, .pSs), (0x14, .pPacked), (0x15, .pWidth), (0x16, .pHeight), (0x17, .pFrames), (0x18, .pFpsnumLo),
    (0x19, .pFpsnumHi), (0x1A, .pFpsdenLo), (0x1B, .pFpsdenHi), (0x20, .cFmt), (0x21, .pmode), (0x22, .xsel),
    (0x23, .cWidth), (0x24, .cHeight), (0x25, .cFrames), (0x26, .cFpsnum), (0x27, .cFpsden), (0x28, .ctxH), (0x29, .nodeH),
    (0x2A, .frameH), (0x2B, .dstH), (0x30, .srcBase0), (0x31, .srcStride0), (0x32, .srcBase1), (0x33, .srcStride1),
    (0x34, .srcBase2), (0x35, .srcStride2), (0x38, .dstBase0), (0x39, .dstStride0), (0x3A, .dstBase1), (0x3B, .dstStride1),
    (0x3C, .dstBase2), (0x3D, .dstStride2) ]

/-- The registers whose host access is "read only" (10_state.md R22). -/
def readOnlyRegs : List Reg :=
  [.status, .diag, .cFmt, .pmode, .xsel, .cWidth, .cHeight, .cFrames, .cFpsnum, .cFpsden, .ctxH, .nodeH, .frameH, .dstH]

/-- The formats with `IsPacked` of 41_format_table.md R131: BGR24, BGR32, YUY2. -/
def packedFormats : List Word := [13, 14, 15]

/-- The formats with `IsWide` of R131: Y16 and the native 16-bit and 32-bit float planar formats. -/
def wideFormats : List Word := [2, 7, 8, 9, 10, 11, 12]

/-- The column `nDst` of R131 (42_geometry_and_select.md R162): 1 for Y8, Y16, BGR24, BGR32 and YUY2, 3 for the planar YUV
formats; UNSUPPORTED has none. -/
def destinationPlanes (c : Word) : Nat :=
  if c ∈ [(1 : Word), 2, 13, 14, 15] then 1 else if c ∈ [(3 : Word), 4, 5, 6, 7, 8, 9, 10, 11, 12] then 3 else 0

/-- The table of 42_geometry_and_select.md R161 by subsampling class: the class, and the factors `2^sw` and `2^sh`. -/
def chromaFactors : List (Word × Nat × Nat) := [(0, 1, 1), (1, 1, 1), (2, 2, 1), (3, 2, 2), (4, 4, 1)]

/-- The rows of the table of 41_format_table.md R132 as numbers: `P_FMT`, `Map(fmt, 0)`, `Map(fmt, 1)`. -/
def mapRows : List (Word × Word × Word) :=
  [ (0x10, 1, 1), (0x13, 1, 2), (0x14, 0, 0), (0x20, 3, 3), (0x21, 3, 3), (0x22, 3, 3), (0x23, 3, 7), (0x24, 0, 10),
    (0x30, 4, 4), (0x31, 4, 4), (0x32, 4, 4), (0x33, 4, 8), (0x34, 0, 11), (0x40, 5, 5), (0x41, 5, 5), (0x42, 5, 5),
    (0x43, 5, 9), (0x44, 0, 12), (0x50, 6, 6), (0x60, 13, 13), (0x70, 14, 14), (0x80, 15, 15) ]

/-- Byte `k` of source row `y` of plane `p` is one BLIT copies (42_geometry_and_select.md R160). -/
def InBlit (f : RegFile) (p : Plane) (y k : Nat) : Prop :=
  p.val < f.pPlanes.toNat ∧ y < (planeGeometry f p).rows.toNat ∧ k < (planeGeometry f p).rowBytes.toNat

/-- Where BLIT reads that byte (43_transcoders.md R172). -/
def blitSrc (f : RegFile) (p : Plane) (y k : Nat) : Word := byteAddr (rowAddr (srcPlane f p) y) k

/-- Where BLIT writes it: row `rows_p - 1 - y` when `XSEL.FLIP`, bit 2 (10_state.md R37), is 1, else row `y` (R172). -/
def blitDst (f : RegFile) (p : Plane) (y k : Nat) : Word :=
  byteAddr (rowAddr (dstPlane f p) (if f.xsel.getLsbD 2 then (planeGeometry f p).rows.toNat - 1 - y else y)) k

/-- Sample `i` of row `y` of plane `p` is one STACK splits (R160, R176). -/
def InStack (f : RegFile) (p : Plane) (y i : Nat) : Prop :=
  p.val < f.pPlanes.toNat ∧ y < (planeGeometry f p).rows.toNat ∧ i < (planeGeometry f p).width.toNat

/-- Where STACK reads the sample. -/
def stackSrc (f : RegFile) (p : Plane) (y i : Nat) : Word := byteAddr (rowAddr (srcPlane f p) y) (2 * i)

/-- Where STACK writes its most significant byte: the top half-plane. -/
def stackTop (f : RegFile) (p : Plane) (y i : Nat) : Word := byteAddr (rowAddr (dstPlane f p) y) i

/-- Where STACK writes its least significant byte: the bottom half-plane. -/
def stackBottom (f : RegFile) (p : Plane) (y i : Nat) : Word :=
  byteAddr (rowAddr (dstPlane f p) (y + (planeGeometry f p).rows.toNat)) i

/-- Where BGRPACK reads the byte of channel plane `p` of pixel `(x, y)` (R183). -/
def bgrSrc (f : RegFile) (p : Plane) (y x : Nat) : Word := byteAddr (rowAddr (srcPlane f p) y) x

/-- Byte `j` (0 B, 1 G, 2 R) of pixel `(x, y)` is one BGRPACK writes: its offset `3x + j` lies in the row, which is
`u32(3 * W)` bytes long (42_geometry_and_select.md R160; 93_implementation_defined.md U6). Below a width of 2^32 / 3 that is
every byte of every pixel. -/
def InBgr (f : RegFile) (y x j : Nat) : Prop :=
  y < f.pHeight.toNat ∧ x < f.pWidth.toNat ∧ j < 3 ∧ 3 * x + j < 3 * f.pWidth.toNat % 2 ^ 32

/-- The source plane of byte `j` of a destination pixel: 0 is B of plane 2, 1 is G of plane 1, 2 is R of plane 0 (R182). -/
def bgrChannel (j : Nat) : Plane := if j = 0 then 2 else if j = 1 then 1 else 0

/-- Where BGRPACK writes byte `j` (0 B, 1 G, 2 R) of pixel `(x, y)`: stored row `H - 1 - y` (R182, R183). -/
def bgrDst (f : RegFile) (y x j : Nat) : Word :=
  byteAddr (rowAddr (dstPlane f 0) (f.pHeight.toNat - 1 - y)) (3 * x) + BitVec.ofNat 32 j

/-- The transcoder a command runs with these registers. -/
def transcoderRun (f : RegFile) : Instr → Option Transcoder
  | .blit => some .blit
  | .stack => some .stack
  | .bgrpack => some .bgrpack
  | .convert =>
    if f.xsel.extractLsb' 0 2 = 0 then some .blit else if f.xsel.extractLsb' 0 2 = 1 then some .stack
    else if f.xsel.extractLsb' 0 2 = 2 then some .bgrpack else none
  | _ => none

/-- The moves a command runs with these registers. -/
def movesRun (f : RegFile) (i : Instr) : List Move :=
  match transcoderRun f i with
  | some tr => transcoderMoves f tr
  | none => []

/-- The first of the five checks of 44_session.md R205 that a descriptor fails, said of the descriptor itself. -/
def descriptorError (native : Bool) (d : Descriptor) : Option ErrCode :=
  if d.frames.toInt ≤ 0 then some .length
  else if d.width = 0 ∨ d.height = 0 ∨ d.fmt = 0 then some .variableFormat
  else if d.fpsnum = 0 ∨ d.fpsden = 0 then some .variableFps
  else if 2 ^ 32 ≤ d.fpsnum.toNat ∨ 2 ^ 32 ≤ d.fpsden.toNat then some .fpsRange
  else if mapFormat d.fmt native = .unsupported then some .unsupportedFormat
  else none

/-- The answers `initializeEngine() -> true`, `evaluate -> Ok(c)`, `getOutputNode -> Some(nd)`, `getFormatDescriptor -> d`
come next. -/
def AnswersOpen (s : State) (c nd : Word) (d : Descriptor) : Prop :=
  s.env.initializeEngine.head? = some true ∧ s.env.evaluate.head? = some (.ok c) ∧
    s.env.getOutputNode.head? = some (some nd) ∧ s.env.getFormatDescriptor.head? = some d

/-- The calls of a construction that reaches the descriptor (R202, R204), with `CTRL.INLINE`, bit 2, and `CTRL.OUTIDX`, bits
15:8 (10_state.md R23), as arguments. -/
def openCalls (f : RegFile) (c nd : Word) (d : Descriptor) : List EnvEvent :=
  [ .initializeEngine true, .evaluate f.scriptRef (f.ctrl.getLsbD 2) (.ok c),
    .getOutputNode c (f.ctrl.extractLsb' 8 8) (some nd), .getFormatDescriptor nd d ]

/-- The registers after a failed OPEN (R207): `STATUS` = `e * 256 + 6`, resolved registers and handles 0. -/
def failedRegs (e : ErrCode) (diag : Word) (f : RegFile) : RegFile :=
  { f with status := BitVec.ofNat 32 (e.code.toNat * 256 + 6), diag := diag, cFmt := 0, pmode := 0, xsel := 0,
           cWidth := 0, cHeight := 0, cFrames := 0, cFpsnum := 0, cFpsden := 0, ctxH := 0, nodeH := 0, frameH := 0,
           dstH := 0 }

/-- The registers of a session right after OPEN (R201, R206): `STATUS` = 0x3A (PHASE READY, engine, context and node
held); `CTRL.NATIVE` is bit 0 and `CTRL.STACKED_REQ` bit 1 (10_state.md R23). -/
def readyRegs (bgr32Flip : Bool) (c nd : Word) (d : Descriptor) (f : RegFile) : RegFile :=
  let cfmt := (mapFormat d.fmt (f.ctrl.getLsbD 0)).code
  let g := resolveGeometry d.bps cfmt (f.ctrl.getLsbD 1) d.width d.height
  let sel := selectTranscoder cfmt g.1.code
  { storeDescriptor d f with
      status := 0x3A, diag := 0, cFmt := cfmt, pmode := g.1.code,
      xsel := sel.code + (if sel = .blit ∧ cfmt = 14 ∧ bgr32Flip = true then 4 else 0),
      cWidth := g.2.1, cHeight := g.2.2, cFrames := d.frames, cFpsnum := d.fpsnum.extractLsb' 0 32,
      cFpsden := d.fpsden.extractLsb' 0 32, ctxH := c, nodeH := nd, frameH := 0, dstH := 0 }

/-- The answers of one frame come next: `getFrame -> Some(fr)`, `allocFrame -> Some(al)`, and for each source plane in
ascending order `getPlaneData -> ps p`. -/
def AnswersFrame (s : State) (fr : Word) (al : Allocation) (ps : Plane → PlaneRef) : Prop :=
  s.env.getFrame.head? = some (some fr) ∧ s.env.allocFrame.head? = some (some al) ∧
    ∃ rest, s.env.getPlaneData = (planesOf s.regs).map ps ++ rest

/-- The plane registers of one frame (44_session.md R210): destination planes below `nDst`, 1 or 3 by the consumer format
(41_format_table.md R131), from the allocation, source planes below `P_PLANES` from the producer; `DST_H` names the buffer and
`FRAME_H` is 0 again. -/
def frameRegs (al : Allocation) (ps : Plane → PlaneRef) (f : RegFile) : RegFile :=
  let g := (planesBelow (destinationPlanes f.cFmt)).foldl (fun g p => setDstPlane g p (allocationPlane al p)) f
  let g := (planesOf f).foldl (fun g p => setSrcPlane g p (ps p)) g
  { g with dstH := al.dst, frameH := 0 }

/-- The calls of one frame (R210). -/
def frameCalls (f : RegFile) (n fr : Word) (al : Allocation) (ps : Plane → PlaneRef) : List EnvEvent :=
  [.getFrame f.nodeH n (some fr), .allocFrame f.cFmt f.cWidth f.cHeight (some al)] ++
    (planesOf f).map (fun p => .getPlaneData fr p (ps p)) ++ [.releaseFrame fr]

/-- The same state with an environment that never answers the call of this number since reset (none: answers every call). -/
def withStall (k : Option Nat) (s : State) : State := { s with env := { s.env with stallAt := k } }

/-- The commands of a list, one after the other. -/
def runInstrs : List Instr → State → Host.Outcome State Fault Refusal
  | [], s => .next s
  | i :: rest, s =>
    match exec i s with
    | .next t => runInstrs rest t
    | .fault r => .fault r
    | .refused r => .refused r

/-- The releases of CLOSE for what the HAVE bits say is held, in the order node, context, engine (R214). -/
def closeCalls (f : RegFile) : List EnvEvent :=
  (if haveNode f then [.releaseNode f.nodeH] else []) ++ (if haveCtx f then [.releaseContext f.ctxH] else []) ++
    (if haveEngine f then [.engineRelease] else [])

end Sys2Proof.Claims

open Sys2Proof.Claims

/-! ### Encoding -/

/-- Decode and encode agree on every command with every operand value. -/
def Obligations.EncodeThenDecodeGivesTheCommand : Prop :=
  ∀ i : Instr, i.wellFormed = true → decode (encode i) = .ok i

/-- Each word has one meaning: a word that decodes is the word of its command. -/
def Obligations.DecodedWordIsTheEncodedWord : Prop :=
  ∀ (w : CommandWord) (i : Instr), decode w = .ok i → encode i = w

/-- R90: a word is the sum of its four shifted fields, and the reserved field is 0 in every command. -/
def Obligations.WordIsTheSumOfItsFields : Prop :=
  (∀ w : CommandWord, joinFields (fieldsOf w) = w) ∧
  (∀ f : Fields, (joinFields f).toNat =
    f.op.toNat * 2 ^ 56 + f.ra.toNat * 2 ^ 48 + f.rsv.toNat * 2 ^ 32 + f.imm.toNat) ∧
  ∀ (w : CommandWord) (i : Instr), decode w = .ok i → w.extractLsb' 32 16 = 0

/-- R91: a word is the command of an opcode-table row exactly when it matches under the row's mask. -/
def Obligations.MaskAndMatchDecideTheCommand : Prop :=
  (∀ o : Opcode, o.format = match o with
    | .rdr => .r
    | .setr => .ri
    | .getframe => .i
    | _ => .n) ∧
  Format.n.mask = 0xFFFFFFFFFFFFFFFF ∧ Format.r.mask = 0xFF00FFFFFFFFFFFF ∧ Format.ri.mask = 0xFF00FFFF00000000 ∧
  Format.i.mask = 0xFFFFFFFF00000000 ∧
  ∀ (w : CommandWord) (o : Opcode),
    w &&& o.format.mask = BitVec.ofNat 64 (o.number.toNat * 2 ^ 56) ↔ ∃ i, decode w = .ok i ∧ i.opcode = o

/-- Words written out from the spec's encodings, one for each of the 14 opcodes, decode to the commands they stand for. -/
def Obligations.SpecWordsDecode : Prop :=
  decode 0x0000000000000000 = .ok .nop ∧ decode 0x0115000000000040 = .ok (.setr 0x15 64) ∧
  decode 0x0202000000000000 = .ok (.rdr 0x02) ∧ decode 0x1000000000000000 = .ok .openSession ∧
  decode 0x1100000000000000 = .ok .getgeom ∧ decode 0x1200000000000007 = .ok (.getframe 7) ∧
  decode 0x1300000000000000 = .ok .close ∧ decode 0x2000000000000000 = .ok .map ∧
  decode 0x2100000000000000 = .ok .resolve ∧ decode 0x2200000000000000 = .ok .select ∧
  decode 0x3000000000000000 = .ok .blit ∧ decode 0x3100000000000000 = .ok .stack ∧
  decode 0x3200000000000000 = .ok .bgrpack ∧ decode 0x3300000000000000 = .ok .convert ∧
  decode 0x0110000100000060 = .error .rsvNotZero

/-- R95: an illegal word is answered with `E_ILLEGAL_CMD` and nothing else happens; NOP is the one word without effect, and
every unassigned opcode is illegal. -/
def Obligations.IllegalWordsAreOnlyAnswered : Prop :=
  (∀ (w : CommandWord) (e : Illegal), decode w = .error e → AnsweredIllegal w) ∧
  (∀ w : CommandWord, decode w = .ok .nop ↔ w = 0) ∧
  ∀ w : CommandWord, (∀ o : Opcode, o.number ≠ w.extractLsb' 56 8) → ∃ e, decode w = .error e

/-! ### The step -/

/-- A step runs the decoded command and advances the index by 1; at the end of the host's list nothing happens
(log entry 2). -/
def Obligations.StepRunsTheDecodedCommand : Prop :=
  (∀ (s t : State) (w : CommandWord) (i : Instr), fetchWord s = some w → decode w = .ok i → i.wellFormed = true →
    exec i s = .next t → step s = .next { t with index := t.index + 1 }) ∧
  (∀ (s : State) (w : CommandWord) (i : Instr) (r : Fault), fetchWord s = some w → decode w = .ok i →
    exec i s = .fault r → step s = .fault r) ∧
  ∀ s : State, fetchWord s = none → step s = .next s

/-- The response list is empty at reset and only grows, by one record per command; the trace is empty at reset and only grows;
the index advances by exactly 1 (10_state.md sections 1, 2 and 5). That the word list and the platform are fields that never
change is the model's choice (log entry 1). -/
def Obligations.EveryStepGrowsTheListsByOneCommand : Prop :=
  State.reset.trace = [] ∧ State.reset.responses = [] ∧ State.reset.index = 0 ∧
  ∀ (s t : State) (w : CommandWord), fetchWord s = some w → step s = .next t →
    t.index = s.index + 1 ∧ (∃ r, t.responses = s.responses ++ [r]) ∧ (∃ calls, t.trace = s.trace ++ calls) ∧
    t.commands = s.commands ∧ t.platform = s.platform

/-- R96: the checks in their order, each answered with its error and no other effect; a command that passes them all is
executed and ends with no error of theirs. -/
def Obligations.ChecksComeInOrder : Prop :=
  ∀ (s : State) (w : CommandWord), fetchWord s = some w →
    (∀ e, decode w = .error e → step s = .next { answered 13 [] s with index := s.index + 1 }) ∧
    ∀ (i : Instr) (p : Phase), decode w = .ok i → phaseBits s.regs = p.code → p ∈ [.uninit, .ready, .failed] →
      (phaseAccepts i.opcode p = false → step s = .next { answered 12 [] s with index := s.index + 1 }) ∧
      (phaseAccepts i.opcode p = true → ¬ registerAccepted i →
        step s = .next { answered 15 [] s with index := s.index + 1 }) ∧
      (phaseAccepts i.opcode p = true → registerAccepted i → ¬ parametersAccepted s.regs i →
        step s = .next { answered 14 [] s with index := s.index + 1 }) ∧
      (phaseAccepts i.opcode p = true → registerAccepted i → parametersAccepted s.regs i → ∀ t, step s = .next t →
        ∃ r, t.responses = s.responses ++ [r] ∧ r.code.toNat ≤ 11)

/-- R97: the phase table decides `E_STATE`. -/
def Obligations.PhaseTableDecidesStateErrors : Prop :=
  ∀ (s : State) (i : Instr) (p : Phase), phaseBits s.regs = p.code → p ∈ [.uninit, .ready, .failed] →
    (phaseAccepts i.opcode p = false → exec i s = .next (answered 12 [] s)) ∧
    (phaseAccepts i.opcode p = true → ∀ t, exec i s = .next t →
      ∃ r, t.responses = s.responses ++ [r] ∧ r.code ≠ 12)

/-- R98: every command ends with exactly one response record, of this form. -/
def Obligations.EveryCommandGivesOneResponse : Prop :=
  ∀ (i : Instr) (s t : State), exec i s = .next t →
    ∃ r, t.responses = s.responses ++ [r] ∧ r.code.toNat ≤ 15 ∧ (r.code ≠ 0 → r.data = []) ∧
      (r.code = 0 → match i with
        | .rdr ra => ∃ reg, regIndex reg = ra ∧ r.data = [s.regs.get reg]
        | .getgeom =>
          r.data = [s.regs.cWidth, s.regs.cHeight, s.regs.cFrames, s.regs.cFpsnum, s.regs.cFpsden, s.regs.cFmt]
        | .getframe _ => r.data = [t.regs.dstH]
        | _ => r.data = [])

/-- With an environment that answers its calls every command ends in a next state, in every phase and for every operand. -/
def Obligations.EveryCommandEndsWhenAnswered : Prop :=
  (∀ (i : Instr) (s : State), EnvAnswers s → ∃ t, exec i s = .next t) ∧
  ∀ (i : Instr) (s : State), i ≠ .openSession → i ≠ .close → (∀ n, i ≠ .getframe n) → ∃ t, exec i s = .next t

/-- A command one of whose calls is never answered does not end, whichever of its calls that is, and no other command fails to
end (70_reset_and_hazards.md section 4). The calls of a command are those it makes when all are answered: numbers
`s.trace.length` to `t.trace.length - 1` since reset. Said of the first call of OPEN, GETFRAME and CLOSE as well. The fault
stands for the run that does not go on: the model's choice, log entry 6. -/
def Obligations.UnansweredCallNeverEnds : Prop :=
  (∀ (i : Instr) (s t : State) (k : Nat), exec i (withStall none s) = .next t →
    (s.trace.length ≤ k ∧ k < t.trace.length → exec i (withStall (some k) s) = .fault .envNeverAnswers) ∧
    (k < s.trace.length ∨ t.trace.length ≤ k → exec i (withStall (some k) s) = .next (withStall (some k) t))) ∧
  (∀ s : State, inSession s.regs = false → s.env.stallAt = some s.trace.length →
    exec .openSession s = .fault .envNeverAnswers) ∧
  (∀ (s : State) (n : Word), inSession s.regs = true → convertParamsOk s.regs = true →
    s.env.stallAt = some s.trace.length → exec (.getframe n) s = .fault .envNeverAnswers) ∧
  (∀ s : State, haveNode s.regs = true ∨ haveCtx s.regs = true ∨ haveEngine s.regs = true →
    s.env.stallAt = some s.trace.length → exec .close s = .fault .envNeverAnswers) ∧
  ∀ (i : Instr) (s : State) (r : Fault), exec i s = .fault r → ∃ k, s.env.stallAt = some k ∧ s.trace.length ≤ k

/-! ### Reset and invariants -/

/-- R49: after reset every register is 0, the trace and the response list are empty, and memory is not touched by a reset. -/
def Obligations.ResetLeavesEveryRegisterZero : Prop :=
  (∀ r : Reg, State.reset.regs.get r = 0) ∧ State.reset.trace = [] ∧ State.reset.responses = [] ∧
  phaseBits State.reset.regs = Phase.uninit.code ∧ haveEngine State.reset.regs = false ∧
  haveCtx State.reset.regs = false ∧ haveNode State.reset.regs = false ∧ haveFrame State.reset.regs = false ∧
  errBits State.reset.regs = 0 ∧ State.reset.regs.ctrl.getLsbD 0 = false ∧ State.reset.regs.ctrl.getLsbD 1 = false ∧
  consumerOf State.reset.regs.cFmt = some .unsupported ∧ State.reset.regs.pmode = PackingMode.native.code ∧
  transcoderOf (xselSel State.reset.regs) = some .blit ∧ xselFlip State.reset.regs = false ∧
  ∀ s : State, (platformReset s).mem = s.mem ∧ (platformReset s).regs = State.reset.regs

/-- The invariant of a command boundary holds at reset; that reset memory lists nothing is the model's choice (log entry 4). -/
def Obligations.ResetMeetsTheBoundaryInvariant : Prop := Inv State.reset

/-- Every step keeps the canonical form of the memory, the model's own (log entry 4). -/
def Obligations.StepKeepsMemoryCanonical : Prop :=
  ∀ s t : State, s.mem.wf → step s = .next t → t.mem.wf

/-- Every step keeps the register invariants of a command boundary: reserved bits, legal phase, error fields, and the
ownership and resolved registers of 44_session.md R216 (a) to (c). -/
def Obligations.StepKeepsBoundaryRegisters : Prop :=
  ∀ s t : State, BoundaryRegisters s.platform.bgr32Flip s.regs → step s = .next t →
    BoundaryRegisters t.platform.bgr32Flip t.regs

/-- Every step keeps the trace balanced against what the registers hold: 44_session.md R216 (d) and (e). -/
def Obligations.StepKeepsTraceBalanced : Prop :=
  ∀ s t : State, BoundaryRegisters s.platform.bgr32Flip s.regs → TraceBalanced s → step s = .next t → TraceBalanced t

/-- No leaked handles: outside a session the calls of the trace have given back everything they obtained. -/
def Obligations.OutsideASessionNothingIsHeld : Prop :=
  ∀ s t : State, Inv s → step s = .next t → phaseBits t.regs ≠ Phase.ready.code →
    ledgerRun Ledger.empty t.trace = some Ledger.empty

/-- The transitions of the phase at command boundaries (10_state.md section 4). -/
def Obligations.PhaseTransitionsAtBoundaries : Prop :=
  ∀ (i : Instr) (s t : State), BoundaryPhase s.regs → exec i s = .next t →
    match i with
    | .openSession =>
      if phaseBits s.regs = Phase.ready.code then phaseBits t.regs = Phase.ready.code
      else phaseBits t.regs = Phase.ready.code ∨ phaseBits t.regs = Phase.failed.code
    | .close => phaseBits t.regs = Phase.uninit.code
    | _ => phaseBits t.regs = phaseBits s.regs

/-- In session no command but CLOSE changes the arguments, the descriptor, the resolved registers, STATUS, DIAG or the
session's handles. -/
def Obligations.SessionFieldsAreReadOnly : Prop :=
  ∀ (i : Instr) (s t : State), BoundaryRegisters s.platform.bgr32Flip s.regs → phaseBits s.regs = Phase.ready.code →
    i ≠ .close → exec i s = .next t →
    ∀ r : Reg, r ∉ [Reg.dstH, .srcBase0, .srcStride0, .srcBase1, .srcStride1, .srcBase2, .srcStride2,
      .dstBase0, .dstStride0, .dstBase1, .dstStride1, .dstBase2, .dstStride2] → t.regs.get r = s.regs.get r

/-- The commands other than BLIT, STACK, BGRPACK, CONVERT and GETFRAME neither read nor write the data memory. -/
def Obligations.OtherCommandsDoNotAccessMemory : Prop :=
  ∀ (i : Instr) (s t : State), i ∉ [Instr.blit, .stack, .bgrpack, .convert] → (∀ n, i ≠ .getframe n) →
    exec i s = .next t → t.mem = s.mem ∧ ∀ m : Memory, exec i { s with mem := m } = .next { t with mem := m }

/-! ### Host register commands -/

/-- R120: NOP answers `(0, [])` and does nothing; its one word is 0. -/
def Obligations.NopOnlyAnswers : Prop :=
  OneWord .nop 0 ∧ ∀ s : State, exec .nop s = .next (answered 0 [] s)

/-- R121: SETR writes one host-writable register when idle; its errors write nothing. -/
def Obligations.SetrWritesOneRegister : Prop :=
  (∀ (ra : BitVec 8) (imm : Word), decode (BitVec.ofNat 64 (1 * 2 ^ 56 + ra.toNat * 2 ^ 48 + imm.toNat)) =
    .ok (.setr ra imm)) ∧
  (∀ w : CommandWord, w.extractLsb' 56 8 = 0x01 → w.extractLsb' 32 16 ≠ 0 → AnsweredIllegal w) ∧
  (∀ (s : State) (ra : BitVec 8) (imm : Word), phaseBits s.regs = Phase.ready.code →
    exec (.setr ra imm) s = .next (answered 12 [] s)) ∧
  (∀ (s : State) (ra : BitVec 8) (imm : Word), phaseBits s.regs ≠ Phase.ready.code →
    (∀ r, regIndex r ≠ ra) → exec (.setr ra imm) s = .next (answered 15 [] s)) ∧
  (∀ (s : State) (r : Reg) (imm : Word), phaseBits s.regs ≠ Phase.ready.code →
    r ∈ readOnlyRegs → exec (.setr (regIndex r) imm) s = .next (answered 15 [] s)) ∧
  ∀ (s : State) (r : Reg) (imm : Word), phaseBits s.regs ≠ Phase.ready.code →
    r ∉ readOnlyRegs →
    ∃ f : RegFile, exec (.setr (regIndex r) imm) s = .next (answered 0 [] { s with regs := f }) ∧
      f.get r = (if r = .ctrl then imm &&& 0x0000FF07 else imm) ∧ ∀ r', r' ≠ r → f.get r' = s.regs.get r'

/-- R122: RDR answers the register's value in every phase and changes nothing. -/
def Obligations.RdrReadsAnyRegister : Prop :=
  (∀ ra : BitVec 8, decode (BitVec.ofNat 64 (2 * 2 ^ 56 + ra.toNat * 2 ^ 48)) = .ok (.rdr ra)) ∧
  (∀ w : CommandWord, w.extractLsb' 56 8 = 0x02 → (w.extractLsb' 32 16 ≠ 0 ∨ w.extractLsb' 0 32 ≠ 0) →
    AnsweredIllegal w) ∧
  (∀ (s : State) (ra : BitVec 8), (∀ r, regIndex r ≠ ra) → exec (.rdr ra) s = .next (answered 15 [] s)) ∧
  ∀ (s : State) (r : Reg), exec (.rdr (regIndex r)) s = .next (answered 0 [s.regs.get r] s)

/-- The 40 registers have the indices of the table of 10_state.md section 3, no two the same, and no other index is
implemented; the fields of CTRL, STATUS and XSEL lie at their bits, and the phases have their numbers (10_state.md sections 3
and 4). -/
def Obligations.RegisterIndicesHaveNoAliases : Prop :=
  registerTable.length = 40 ∧ (∀ row ∈ registerTable, regIndex row.2 = row.1) ∧
  (∀ r : Reg, r ∈ registerTable.map Prod.snd) ∧ (∀ r r' : Reg, regIndex r = regIndex r' → r = r') ∧
  (∀ (ra : BitVec 8) (r : Reg), regOfIndex ra = some r ↔ (ra, r) ∈ registerTable) ∧
  (∀ f : RegFile, ctrlNative f = f.ctrl.getLsbD 0 ∧ ctrlStackedReq f = f.ctrl.getLsbD 1 ∧
    ctrlInline f = f.ctrl.getLsbD 2 ∧ ctrlOutidx f = f.ctrl.extractLsb' 8 8 ∧
    phaseBits f = f.status.extractLsb' 0 3 ∧ haveEngine f = f.status.getLsbD 3 ∧ haveCtx f = f.status.getLsbD 4 ∧
    haveNode f = f.status.getLsbD 5 ∧ haveFrame f = f.status.getLsbD 6 ∧ errBits f = f.status.extractLsb' 8 8 ∧
    xselSel f = f.xsel.extractLsb' 0 2 ∧ xselFlip f = f.xsel.getLsbD 2) ∧
  [Phase.uninit, .validated, .ready, .fetching, .converting, .done, .failed].map Phase.code = [0, 1, 2, 3, 4, 5, 6]

/-! ### Format Table, geometry, selection -/

/-- R134: MAP writes C_FMT from P_FMT and CTRL.NATIVE, bit 0 of CTRL, and nothing else; `E_STATE` in session. -/
def Obligations.MapWritesTheConsumerFormat : Prop :=
  OneWord .map 0x2000000000000000 ∧
  (∀ s : State, phaseBits s.regs = Phase.ready.code → exec .map s = .next (answered 12 [] s)) ∧
  ∀ s : State, phaseBits s.regs ≠ Phase.ready.code →
    exec .map s = .next (answered 0 [] { s with regs :=
      { s.regs with cFmt := (mapFormat s.regs.pFmt (s.regs.ctrl.getLsbD 0)).code } })

/-- R132: the 22 rows of the mapping, and UNSUPPORTED for every other identifier. -/
def Obligations.MapTableRows : Prop :=
  (∀ row ∈ mapRows, (mapFormat row.1 false).code = row.2.1 ∧ (mapFormat row.1 true).code = row.2.2) ∧
  ∀ (fmt : Word) (native : Bool), fmt ∉ mapRows.map Prod.fst → (mapFormat fmt native).code = 0

/-- R133: Map reads only its two arguments; without the flag no wide format; the flag changes exactly seven rows. -/
def Obligations.NativeFlagChangesSevenRows : Prop :=
  (∀ f g : RegFile, f.pFmt = g.pFmt → f.ctrl.getLsbD 0 = g.ctrl.getLsbD 0 → (runMap f).cFmt = (runMap g).cFmt) ∧
  (∀ fmt : Word, (mapFormat fmt false).code ∉ wideFormats) ∧
  ∀ fmt : Word, mapFormat fmt true ≠ mapFormat fmt false ↔
    fmt ∈ [(0x13 : Word), 0x23, 0x33, 0x43, 0x24, 0x34, 0x44]

/-- R153, R152: RESOLVE writes the packing mode and the frame geometry by the first rule that holds, and nothing else;
`E_STATE` in session. STACKED_REQ is bit 1 of CTRL (10_state.md R23); the packed and the wide formats are those of
41_format_table.md R131. -/
def Obligations.ResolveWritesTheGeometry : Prop :=
  OneWord .resolve 0x2100000000000000 ∧
  (∀ s : State, phaseBits s.regs = Phase.ready.code → exec .resolve s = .next (answered 12 [] s)) ∧
  ∀ s : State, phaseBits s.regs ≠ Phase.ready.code →
    let f := s.regs
    let mcwch : Word × Word × Word :=
      if f.cFmt ∈ packedFormats then (0, f.pWidth, f.pHeight)
      else if f.pBps = 1 then (0, f.pWidth, f.pHeight)
      else if f.cFmt ∈ wideFormats then (0, f.pWidth, f.pHeight)
      else if f.ctrl.getLsbD 1 then (2, f.pWidth, BitVec.ofNat 32 (2 * f.pHeight.toNat))
      else (1, BitVec.ofNat 32 (f.pWidth.toNat * f.pBps.toNat), f.pHeight)
    exec .resolve s = .next (answered 0 [] { s with regs :=
      { f with pmode := mcwch.1, cWidth := mcwch.2.1, cHeight := mcwch.2.2, cFrames := f.pFrames,
               cFpsnum := f.pFpsnumLo, cFpsden := f.pFpsdenLo } })

/-- The geometry properties of the source (42_geometry_and_select.md section 1) for every known format, with the registers
resolved: plane 0 is the whole frame; the rows of every format but BGR32 and YUY2 hold whole samples of `P_BPS` bytes, those of
BGR32 and YUY2 4 and 2 bytes for each pixel (there the property that divides by `P_BPS` does not follow, because their `P_BPS`
is any legal value); the declared sizes are those of the mode; and where the dimensions are multiples of the class's factors no
chroma plane loses a column or a row. -/
def Obligations.GeometryRoundTrip : Prop :=
  ∀ (b : Bool) (f : RegFile) (p : Plane), descriptorConsistent f = true → GeomFits f → p.val < f.pPlanes.toNat →
    let g := resolvedFrom b f
    let pg := planeGeometry g p
    (p = 0 → pg.width = f.pWidth ∧ pg.rows = f.pHeight) ∧
    (f.pFmt ≠ 0x70 → f.pFmt ≠ 0x80 → pg.rowBytes.toNat = pg.width.toNat * g.pBps.toNat ∧
      pg.width.toNat = pg.rowBytes.toNat / g.pBps.toNat) ∧
    (f.pFmt = 0x70 → 4 * f.pWidth.toNat < 2 ^ 32 → pg.rowBytes.toNat = 4 * pg.width.toNat) ∧
    (f.pFmt = 0x80 → 2 * f.pWidth.toNat < 2 ^ 32 → pg.rowBytes.toNat = 2 * pg.width.toNat) ∧
    (g.pmode = 0 → g.cWidth = f.pWidth ∧ g.cHeight = f.pHeight) ∧
    (g.pmode = 1 → g.cWidth.toNat = f.pWidth.toNat * f.pBps.toNat ∧ g.cHeight = f.pHeight) ∧
    (g.pmode = 2 → g.cWidth = f.pWidth ∧ g.cHeight.toNat = 2 * f.pHeight.toNat) ∧
    (p ≠ 0 → ∀ row ∈ chromaFactors, f.pSs = row.1 → f.pWidth.toNat % row.2.1 = 0 → f.pHeight.toNat % row.2.2 = 0 →
      pg.width.toNat * row.2.1 = f.pWidth.toNat ∧ pg.rows.toNat * row.2.2 = f.pHeight.toNat)

/-- The copy geometry of every plane and what each transcoder moves in one row (42_geometry_and_select.md section 3): BGR32 rows
of `u32(4 * W)` bytes and YUY2 rows of `u32(2 * W)`; otherwise plane 0 of `W` by `H` samples and chroma planes divided by the
factors of the class, rounded down, with rows of `u32(w_p * B)` bytes. BLIT reads and writes `srcRowBytes_p` bytes, STACK reads
`2 * w_p` bytes and writes `w_p` into each half-plane, BGRPACK reads `W` bytes of each of three planes and writes
`u32(3 * W)`. Products are modulo 2^32 (93_implementation_defined.md section 1, U6). -/
def Obligations.PlaneGeometryGivesTheRowLengths : Prop :=
  ∀ (f : RegFile) (p : Plane) (y : Nat),
    let pg := planeGeometry f p
    (f.cFmt = 14 → pg.width = f.pWidth ∧ pg.rows = f.pHeight ∧ pg.rowBytes.toNat = 4 * f.pWidth.toNat % 2 ^ 32) ∧
    (f.cFmt = 15 → pg.width = f.pWidth ∧ pg.rows = f.pHeight ∧ pg.rowBytes.toNat = 2 * f.pWidth.toNat % 2 ^ 32) ∧
    (f.cFmt ≠ 14 → f.cFmt ≠ 15 →
      (p = 0 → pg.width = f.pWidth ∧ pg.rows = f.pHeight) ∧
      (p ≠ 0 → ∀ row ∈ chromaFactors, f.pSs = row.1 →
        pg.width.toNat = f.pWidth.toNat / row.2.1 ∧ pg.rows.toNat = f.pHeight.toNat / row.2.2) ∧
      pg.rowBytes.toNat = pg.width.toNat * f.pBps.toNat % 2 ^ 32) ∧
    ((sourceBytes (blitRowMoves f p y)).length = pg.rowBytes.toNat ∧
      (destBytes (blitRowMoves f p y)).length = pg.rowBytes.toNat) ∧
    ((sourceBytes (stackRowMoves f p y)).length = 2 * pg.width.toNat ∧
      (destBytes (stackRowMoves f p y)).length = 2 * pg.width.toNat) ∧
    (sourceBytes (bgrRowMoves f y)).length = 3 * f.pWidth.toNat ∧
    (destBytes (bgrRowMoves f y)).length = 3 * f.pWidth.toNat % 2 ^ 32

/-- R159, R156: SELECT writes XSEL from C_FMT and PMODE and nothing else; `E_STATE` in session. -/
def Obligations.SelectWritesTheTranscoder : Prop :=
  OneWord .select 0x2200000000000000 ∧
  (∀ s : State, phaseBits s.regs = Phase.ready.code → exec .select s = .next (answered 12 [] s)) ∧
  ∀ s : State, phaseBits s.regs ≠ Phase.ready.code →
    let f := s.regs
    let sel : Word := if f.cFmt = 13 then 2 else if f.pmode = 2 then 1 else 0
    let flip : Word := if sel = 0 ∧ f.cFmt = 14 ∧ s.platform.bgr32Flip = true then 1 else 0
    exec .select s = .next (answered 0 [] { s with regs := { f with xsel := sel + 4 * flip } })

/-- R157: a resolved mode is never Stacked for BGR24; with registers that disagree BGRPACK wins. -/
def Obligations.BgrPackedIsNeverStacked : Prop :=
  (∀ (b : Word) (st : Bool) (w h : Word), (resolveGeometry b 13 st w h).1 = .native) ∧
  ∀ mode : Word, selectTranscoder 13 mode = .bgrpack

/-- The fields of XSEL after SELECT: SEL names the selected transcoder, and FLIP is 1 exactly for a BLIT into BGR32 with
`BGR32_FLIP` = 1 (42_geometry_and_select.md section 2). -/
def Obligations.FlipExactlyForBgr32Blits : Prop :=
  ∀ (b : Bool) (f : RegFile),
    transcoderOf (xselSel (runSelect b f)) = some (selectTranscoder f.cFmt f.pmode) ∧
    (xselFlip (runSelect b f) = true ↔ selectTranscoder f.cFmt f.pmode = .blit ∧ f.cFmt = 14 ∧ b = true)

/-- Under `DescriptorConsistent`, with C_FMT, PMODE and XSEL resolved from the same registers and a supported format, the
checks of the selected transcoder pass (43_transcoders.md section 1). -/
def Obligations.ResolvedParametersPassTheChecks : Prop :=
  ∀ (b : Bool) (f : RegFile), descriptorConsistent f = true → (resolvedFrom b f).cFmt ≠ 0 →
    convertAccepted (resolvedFrom b f)

/-! ### Transcoders -/

/-- BLIT (43_transcoders.md section 2) completes when idle with its parameters accepted and every access admitted; under the
premises of 20_memory.md R68 every byte of every plane is copied, rows reversed when FLIP is 1, and every other byte, every
register and everything else stays. -/
def Obligations.BlitCopiesEveryPlane : Prop :=
  ∀ s : State, s.mem.wf → phaseBits s.regs ≠ Phase.ready.code → blitParamsOk s.regs = true →
    AllAdmitted s.platform (blitMoves s.regs) → PlanesDisjoint (blitMoves s.regs) →
    ∃ m : Memory, exec .blit s = .next (answered 0 [] { s with mem := m }) ∧
      (∀ (p : Plane) (y k : Nat), InBlit s.regs p y k →
        memByte m (blitDst s.regs p y k) = memByte s.mem (blitSrc s.regs p y k)) ∧
      ∀ a : Word, (∀ (p : Plane) (y k : Nat), InBlit s.regs p y k → a ≠ blitDst s.regs p y k) →
        memByte m a = memByte s.mem a

/-- STACK (43_transcoders.md section 3): the most significant byte of every sample to the top half-plane, the least
significant to the bottom half-plane; together they give the sample back. That the disjointness premise counts every byte read
as a source byte is the model's choice where a row has 2^32 bytes (log entry 19). -/
def Obligations.StackSplitsEverySample : Prop :=
  ∀ s : State, s.mem.wf → phaseBits s.regs ≠ Phase.ready.code → stackParamsOk s.regs = true →
    AllAdmitted s.platform (stackMoves s.regs) → PlanesDisjoint (stackMoves s.regs) →
    ∃ m : Memory, exec .stack s = .next (answered 0 [] { s with mem := m }) ∧
      (∀ (p : Plane) (y i : Nat), InStack s.regs p y i →
        memByte m (stackTop s.regs p y i) = memByte s.mem (stackSrc s.regs p y i + 1) ∧
        memByte m (stackBottom s.regs p y i) = memByte s.mem (stackSrc s.regs p y i) ∧
        unstack (memByte m (stackTop s.regs p y i)) (memByte m (stackBottom s.regs p y i)) =
          memByte s.mem (stackSrc s.regs p y i + 1) ++ memByte s.mem (stackSrc s.regs p y i)) ∧
      ∀ a : Word, (∀ (p : Plane) (y i : Nat), InStack s.regs p y i →
          a ≠ stackTop s.regs p y i ∧ a ≠ stackBottom s.regs p y i) → memByte m a = memByte s.mem a

/-- BGRPACK (43_transcoders.md section 4): pixel `(x, y)` to stored row `H - 1 - y` as the bytes B, G, R, the row being
`u32(3 * W)` bytes long (42_geometry_and_select.md section 3). That the first `u32(3 * W)` bytes of a longer row are the ones
written is the model's reading (log entry 10). -/
def Obligations.BgrpackInterleavesReversedRows : Prop :=
  ∀ s : State, s.mem.wf → phaseBits s.regs ≠ Phase.ready.code → bgrParamsOk s.regs = true →
    AllAdmitted s.platform (bgrMoves s.regs) → PlanesDisjoint (bgrMoves s.regs) →
    ∃ m : Memory, exec .bgrpack s = .next (answered 0 [] { s with mem := m }) ∧
      (∀ y x j : Nat, InBgr s.regs y x j →
        memByte m (bgrDst s.regs y x j) = memByte s.mem (bgrSrc s.regs (bgrChannel j) y x)) ∧
      ∀ a : Word, (∀ y x j : Nat, InBgr s.regs y x j → a ≠ bgrDst s.regs y x j) → memByte m a = memByte s.mem a

/-- CONVERT (43_transcoders.md section 5) does what the command of the selected transcoder does; with SEL = 3 it answers
`E_PARAM`; and it completes when that transcoder's parameters are accepted and every access is admitted. -/
def Obligations.ConvertRunsTheSelectedTranscoder : Prop :=
  (∀ s : State, s.regs.xsel.extractLsb' 0 2 = 0 → exec .convert s = exec .blit s) ∧
  (∀ s : State, s.regs.xsel.extractLsb' 0 2 = 1 → exec .convert s = exec .stack s) ∧
  (∀ s : State, s.regs.xsel.extractLsb' 0 2 = 2 → exec .convert s = exec .bgrpack s) ∧
  (∀ s : State, s.regs.xsel.extractLsb' 0 2 = 3 → phaseBits s.regs ≠ Phase.ready.code →
    exec .convert s = .next (answered 14 [] s)) ∧
  ∀ s : State, phaseBits s.regs ≠ Phase.ready.code → convertParamsOk s.regs = true →
    AllAdmitted s.platform (movesRun s.regs .convert) → PlanesDisjoint (movesRun s.regs .convert) →
    ∃ m : Memory, runMoves s.platform s.mem (movesRun s.regs .convert) = some m ∧
      exec .convert s = .next (answered 0 [] { s with mem := m })

/-- A transcoder command, however it ends (overlap and `E_MEM` included), writes no register, makes no call, and leaves every
byte outside its destination rectangles (43_transcoders.md sections 1 and 6). -/
def Obligations.TranscodersTouchOnlyTheirDestination : Prop :=
  ∀ (i : Instr) (s t : State), i ∈ [Instr.blit, .stack, .bgrpack, .convert] → s.mem.wf → exec i s = .next t →
    t.regs = s.regs ∧ t.trace = s.trace ∧ t.env = s.env ∧
    ∀ a : Word, a ∉ destBytes (movesRun s.regs i) → memByte t.mem a = memByte s.mem a

/-- A refused access answers `E_MEM` (11), whatever the planes; with every access admitted the answer is success also where
planes overlap (60_exceptions.md section 1, 20_memory.md section 4). What memory then holds is free: log entries 7, 8. -/
def Obligations.RefusedAccessAnswersEMem : Prop :=
  ∀ (i : Instr) (s : State), i ∈ [Instr.blit, .stack, .bgrpack, .convert] → phaseBits s.regs ≠ Phase.ready.code →
    parametersAccepted s.regs i →
    (¬ AllAdmitted s.platform (movesRun s.regs i) →
      ∃ (m : Memory) (k : Nat), exec i s = .next (answered 11 [] { s with mem := m, freeIndex := k })) ∧
    (AllAdmitted s.platform (movesRun s.regs i) →
      ∃ (m : Memory) (k : Nat), exec i s = .next (answered 0 [] { s with mem := m, freeIndex := k }))

/-- R175: the split of a sample is a bijection onto pairs of bytes, with inverse `256 * m + l`. -/
def Obligations.SampleSplitIsABijection : Prop :=
  (∀ s : Sample, (sampleMsb s).toNat = s.toNat / 256 ∧ (sampleLsb s).toNat = s.toNat % 256) ∧
  (∀ m l : Byte, (unstack m l).toNat = 256 * m.toNat + l.toNat) ∧
  (∀ s : Sample, unstack (sampleMsb s) (sampleLsb s) = s) ∧
  ∀ m l : Byte, sampleMsb (unstack m l) = m ∧ sampleLsb (unstack m l) = l

/-- The lanes of the stacked-pack engine give the per-sample function for every lane width and row length, with a saturating
and with a truncating pack (43_transcoders.md section 3.1). -/
def Obligations.LanesEqualTheScalarPath : Prop :=
  ∀ (lane : Nat) (row : List Sample),
    engineRow packTruncate lane row = (row.map sampleMsb, row.map sampleLsb) ∧
    engineRow packSaturate lane row = (row.map sampleMsb, row.map sampleLsb)

/-- The 2-byte sample read is little-endian at every address, odd ones and the last one included (20_memory.md sections 2
and 3), and is refused if either byte is. -/
def Obligations.SampleReadIsLittleEndian : Prop :=
  ∀ (pl : Platform) (m : Memory) (a : Word),
    (admits pl a .r = true → admits pl (a + 1) .r = true →
      ∃ v, memRead2 pl m a = some v ∧ v.toNat = (memByte m a).toNat + 256 * (memByte m (a + 1)).toNat) ∧
    ((admits pl a .r = false ∨ admits pl (a + 1) .r = false) → memRead2 pl m a = none)

/-- Row addresses are modulo 2^32 whatever the sign of the stride, and the reversed walk is the same addressing: the origin
is the last row and the pitch is negated (20_memory.md section 1, 43_transcoders.md sections 2 and 4). -/
def Obligations.ReversedRowsNegateThePitch : Prop :=
  (∀ (pl : PlaneRef) (r : Nat), rowAddr pl r = pl.base + BitVec.ofNat 32 r * pl.stride) ∧
  ∀ (pl : PlaneRef) (rows y : Nat), y < rows →
    u32 ((rowAddr pl (rows - 1)).toNat + y * -(signed32 pl.stride)) = rowAddr pl (rows - 1 - y)

/-! ### Session -/

/-- OPEN on a source that keeps the contract constructs the session (44_session.md section 2): registers, trace, response, with
the fields of CTRL at their bits (10_state.md section 3). The answers that come next are the first of the environment's queues:
the model's form, log entry 5. -/
def Obligations.OpenConstructsTheSession : Prop :=
  ∀ (s : State) (c nd : Word) (d : Descriptor), BoundaryRegisters s.platform.bgr32Flip s.regs → EnvAnswers s →
    phaseBits s.regs ≠ Phase.ready.code → AnswersOpen s c nd d → descriptorError (s.regs.ctrl.getLsbD 0) d = none →
    ∃ t : State, exec .openSession s = .next t ∧
      t.regs = readyRegs s.platform.bgr32Flip c nd d s.regs ∧ t.trace = s.trace ++ openCalls s.regs c nd d ∧
      t.responses = s.responses ++ [{ code := 0, data := [] }] ∧ t.mem = s.mem ∧ t.platform = s.platform ∧
      t.commands = s.commands ∧ t.index = s.index ∧ t.freeIndex = s.freeIndex

/-- OPEN on a source that breaks the contract fails with the first violated invariant, unwinds node, context and engine, and
keeps the rejected descriptor (44_session.md section 2). -/
def Obligations.OpenRejectsTheFirstViolation : Prop :=
  ∀ (s : State) (c nd : Word) (d : Descriptor) (e : ErrCode), BoundaryRegisters s.platform.bgr32Flip s.regs →
    EnvAnswers s → phaseBits s.regs ≠ Phase.ready.code → AnswersOpen s c nd d →
    descriptorError (s.regs.ctrl.getLsbD 0) d = some e →
    ∃ t : State, exec .openSession s = .next t ∧ t.regs = failedRegs e 0 (storeDescriptor d s.regs) ∧
      t.trace = s.trace ++ openCalls s.regs c nd d ++ [.releaseNode nd, .releaseContext c, .engineRelease] ∧
      t.responses = s.responses ++ [{ code := e.code, data := [] }] ∧ t.mem = s.mem

/-- OPEN whose acquisition fails: no engine, no script, no output node; what was acquired is released (44_session.md
section 2). -/
def Obligations.OpenUnwindsAFailedAcquisition : Prop :=
  ∀ s : State, BoundaryRegisters s.platform.bgr32Flip s.regs → EnvAnswers s → phaseBits s.regs ≠ Phase.ready.code →
    (s.env.initializeEngine.head? = some false →
      ∃ t : State, exec .openSession s = .next t ∧ t.regs = failedRegs .engineInit 0 s.regs ∧ t.mem = s.mem ∧
        t.trace = s.trace ++ [.initializeEngine false] ∧
        t.responses = s.responses ++ [{ code := 1, data := [] }]) ∧
    (∀ diag : Word, s.env.initializeEngine.head? = some true → s.env.evaluate.head? = some (.err diag) →
      ∃ t : State, exec .openSession s = .next t ∧ t.regs = failedRegs .scriptEval diag s.regs ∧ t.mem = s.mem ∧
        t.trace = s.trace ++ [.initializeEngine true,
          .evaluate s.regs.scriptRef (s.regs.ctrl.getLsbD 2) (.err diag), .engineRelease] ∧
        t.responses = s.responses ++ [{ code := 2, data := [] }]) ∧
    (∀ c : Word, s.env.initializeEngine.head? = some true → s.env.evaluate.head? = some (.ok c) →
      s.env.getOutputNode.head? = some none →
      ∃ t : State, exec .openSession s = .next t ∧ t.regs = failedRegs .noOutputNode 0 s.regs ∧ t.mem = s.mem ∧
        t.trace = s.trace ++ [.initializeEngine true,
          .evaluate s.regs.scriptRef (s.regs.ctrl.getLsbD 2) (.ok c), .getOutputNode c (s.regs.ctrl.extractLsb' 8 8) none,
          .releaseContext c, .engineRelease] ∧
        t.responses = s.responses ++ [{ code := 3, data := [] }])

/-- However the environment answers, OPEN ends in a session or, having released everything it obtained, in FAILED with one of
the eight construction errors; the plane registers, CTRL and SCRIPT_REF are not written (44_session.md sections 1, 2 and 6). -/
def Obligations.OpenEndsReadyOrFailedWithoutLeaks : Prop :=
  ∀ s : State, BoundaryRegisters s.platform.bgr32Flip s.regs → EnvAnswers s → phaseBits s.regs ≠ Phase.ready.code →
    ∃ (t : State) (calls : List EnvEvent), exec .openSession s = .next t ∧ t.trace = s.trace ++ calls ∧
      ledgerRun Ledger.empty calls = some (heldBy t.regs) ∧ t.mem = s.mem ∧
      (∀ r ∈ [Reg.ctrl, .scriptRef, .srcBase0, .srcStride0, .srcBase1, .srcStride1, .srcBase2, .srcStride2,
        .dstBase0, .dstStride0, .dstBase1, .dstStride1, .dstBase2, .dstStride2], t.regs.get r = s.regs.get r) ∧
      ((t.regs.status = 0x3A ∧ t.responses = s.responses ++ [{ code := 0, data := [] }]) ∨
        ∃ (e : ErrCode) (d : Word), 1 ≤ e.code.toNat ∧ e.code.toNat ≤ 8 ∧ t.regs = failedRegs e d t.regs ∧
          heldBy t.regs = Ledger.empty ∧ t.responses = s.responses ++ [{ code := e.code, data := [] }])

/-- R209: GETGEOM answers the six words of the geometry and changes nothing; outside a session `E_STATE`. -/
def Obligations.GetgeomAnswersTheGeometry : Prop :=
  OneWord .getgeom 0x1100000000000000 ∧
  (∀ s : State, phaseBits s.regs ≠ Phase.ready.code → exec .getgeom s = .next (answered 12 [] s)) ∧
  ∀ s : State, phaseBits s.regs = Phase.ready.code → exec .getgeom s = .next (answered 0
    [s.regs.cWidth, s.regs.cHeight, s.regs.cFrames, s.regs.cFpsnum, s.regs.cFpsden, s.regs.cFmt] s)

/-- GETFRAME converts one frame (44_session.md section 4): for every frame index, the calls in order, the plane registers
loaded, memory as the selected transcoder leaves it with those registers, the buffer's handle answered, STATUS as before. The
answers are the first of the environment's queues (log entry 5). -/
def Obligations.GetframeConvertsOneFrame : Prop :=
  ∀ (s : State) (n fr : Word) (al : Allocation) (ps : Plane → PlaneRef) (tr : Transcoder), s.mem.wf →
    BoundaryRegisters s.platform.bgr32Flip s.regs → EnvAnswers s → phaseBits s.regs = Phase.ready.code →
    transcoderOf (xselSel s.regs) = some tr → transcoderParamsOk s.regs tr = true → AnswersFrame s fr al ps →
    AllAdmitted s.platform (transcoderMoves (frameRegs al ps s.regs) tr) →
    ∃ t : State, exec (.getframe n) s = .next t ∧ t.regs = frameRegs al ps s.regs ∧
      t.trace = s.trace ++ frameCalls s.regs n fr al ps ∧
      t.responses = s.responses ++ [{ code := 0, data := [al.dst] }] ∧
      t.mem = (transfer (transcoderMoves (frameRegs al ps s.regs) tr) s).2.mem ∧
      ∀ a : Word, a ∉ destBytes (transcoderMoves (frameRegs al ps s.regs) tr) → memByte t.mem a = memByte s.mem a

/-- A refused access in GETFRAME: the frame is released all the same, the session stays, DST_H names the buffer, and only
its bytes may have changed (44_session.md section 4). -/
def Obligations.GetframeReleasesTheFrameOnEMem : Prop :=
  ∀ (s : State) (n fr : Word) (al : Allocation) (ps : Plane → PlaneRef) (tr : Transcoder), s.mem.wf →
    BoundaryRegisters s.platform.bgr32Flip s.regs → EnvAnswers s → phaseBits s.regs = Phase.ready.code →
    transcoderOf (xselSel s.regs) = some tr → transcoderParamsOk s.regs tr = true → AnswersFrame s fr al ps →
    ¬ AllAdmitted s.platform (transcoderMoves (frameRegs al ps s.regs) tr) →
    ∃ t : State, exec (.getframe n) s = .next t ∧ t.regs = frameRegs al ps s.regs ∧
      t.trace = s.trace ++ frameCalls s.regs n fr al ps ∧
      t.responses = s.responses ++ [{ code := 11, data := [] }] ∧
      ∀ a : Word, a ∉ destBytes (transcoderMoves (frameRegs al ps s.regs) tr) → memByte t.mem a = memByte s.mem a

/-- A failed fetch or allocation is fatal for that call only: registers, memory and session as before, the frame released
(44_session.md section 4). -/
def Obligations.GetframeFailuresKeepTheSession : Prop :=
  ∀ (s : State) (n : Word), BoundaryRegisters s.platform.bgr32Flip s.regs → EnvAnswers s →
    phaseBits s.regs = Phase.ready.code → convertParamsOk s.regs = true →
    (s.env.getFrame.head? = some none →
      ∃ t : State, exec (.getframe n) s = .next t ∧ t.regs = s.regs ∧ t.mem = s.mem ∧
        t.trace = s.trace ++ [.getFrame s.regs.nodeH n none] ∧
        t.responses = s.responses ++ [{ code := 9, data := [] }]) ∧
    ∀ fr : Word, s.env.getFrame.head? = some (some fr) → s.env.allocFrame.head? = some none →
      ∃ t : State, exec (.getframe n) s = .next t ∧ t.regs = s.regs ∧ t.mem = s.mem ∧
        t.trace = s.trace ++ [.getFrame s.regs.nodeH n (some fr),
          .allocFrame s.regs.cFmt s.regs.cWidth s.regs.cHeight none, .releaseFrame fr] ∧
        t.responses = s.responses ++ [{ code := 10, data := [] }]

/-- R214: CLOSE is accepted in every phase, releases what is held in the order node, context, engine, and clears every
register except CTRL and SCRIPT_REF. -/
def Obligations.CloseReleasesAndClears : Prop :=
  OneWord .close 0x1300000000000000 ∧
  ∀ s : State, EnvAnswers s →
    ∃ t : State, exec .close s = .next t ∧ t.trace = s.trace ++ closeCalls s.regs ∧
      (∀ r : Reg, t.regs.get r = if r = .ctrl ∨ r = .scriptRef then s.regs.get r else 0) ∧
      t.responses = s.responses ++ [{ code := 0, data := [] }] ∧ t.mem = s.mem ∧ t.env = s.env

/-- R215: a second CLOSE right after a CLOSE makes no call, leaves every register and answers `(0, [])`. -/
def Obligations.CloseIsIdempotent : Prop :=
  ∀ s t : State, exec .close s = .next t →
    phaseBits t.regs = Phase.uninit.code ∧ heldBy t.regs = Ledger.empty ∧ exec .close t = .next (answered 0 [] t)

/-! ### Start-up, reset input, assembler -/

/-- The answers of each of the 14 commands, with every operand, out of reset (70_reset_and_hazards.md section 2). OPEN, whatever
an environment that answers its calls says, starts with `initializeEngine()`, evaluates `SCRIPT_REF` = 0 not inline, asks for
output 0, and ends in a session or in FAILED with one of the eight construction errors. -/
def Obligations.AnswersOutOfReset : Prop :=
  let s := State.reset
  (∀ (ra : BitVec 8) (imm : Word), exec (.setr ra imm) s = match registerTable.find? (fun row => row.1 == ra) with
    | none => .next (answered 15 [] s)
    | some row =>
      if row.2 ∈ readOnlyRegs then .next (answered 15 [] s)
      else .next (answered 0 [] { s with regs := s.regs.set row.2 (if ra = 0x00 then imm &&& 0x0000FF07 else imm) })) ∧
  (∀ ra : BitVec 8, exec (.rdr ra) s = match registerTable.find? (fun row => row.1 == ra) with
    | none => .next (answered 15 [] s)
    | some _ => .next (answered 0 [0] s)) ∧
  (∀ e : Environment, e.stallAt = none → ∃ (t : State) (ok : Bool) (calls : List EnvEvent),
    exec .openSession { s with env := e } = .next t ∧ t.trace = .initializeEngine ok :: calls ∧ t.mem = s.mem ∧
    (ok = true → ∃ r calls', calls = .evaluate 0 false r :: calls' ∧
      ∀ c, r = .ok c → ∃ nd calls'', calls' = .getOutputNode c 0 nd :: calls'') ∧
    ((t.regs.status = 0x3A ∧ t.responses = [{ code := 0, data := [] }]) ∨
      ∃ err : ErrCode, 1 ≤ err.code.toNat ∧ err.code.toNat ≤ 8 ∧
        t.regs.status = BitVec.ofNat 32 (err.code.toNat * 256 + 6) ∧
        t.responses = [{ code := err.code, data := [] }])) ∧
  exec .nop s = .next (answered 0 [] s) ∧ exec .close s = .next (answered 0 [] s) ∧
  exec .map s = .next (answered 0 [] s) ∧
  exec .resolve s = .next (answered 0 [] { s with regs := { s.regs with pmode := 1 } }) ∧
  exec .select s = .next (answered 0 [] s) ∧
  exec .blit s = .next (answered 14 [] s) ∧ exec .stack s = .next (answered 14 [] s) ∧
  exec .bgrpack s = .next (answered 14 [] s) ∧ exec .convert s = .next (answered 14 [] s) ∧
  exec .getgeom s = .next (answered 12 [] s) ∧ ∀ n : Word, exec (.getframe n) s = .next (answered 12 [] s)

/-- The platform's reset input (70_reset_and_hazards.md section 1): every register 0, both lists empty, memory untouched; the
result meets the boundary invariant. That it acts between commands only is the model's form (log entry 12). -/
def Obligations.ResetInputClearsTheRegisters : Prop :=
  ∀ s : State, (∀ r : Reg, (platformReset s).regs.get r = 0) ∧ (platformReset s).trace = [] ∧
    (platformReset s).responses = [] ∧ (platformReset s).mem = s.mem ∧ (s.mem.wf → Inv (platformReset s))

/-- PREP, when idle, leaves the registers that MAP, RESOLVE and SELECT compute, with three successes answered
(30_encoding.md section 7). -/
def Obligations.PrepResolvesTheRegisters : Prop :=
  ∀ s : State, phaseBits s.regs ≠ Phase.ready.code →
    runInstrs (expand .prep) s =
      .next (answered 0 [] (answered 0 [] (answered 0 [] { s with regs := resolvedFrom s.platform.bgr32Flip s.regs })))

/-- SETRATE, when idle, loads the 64-bit frame rate and the frame count, and leaves every other register
(30_encoding.md section 7). -/
def Obligations.SetrateLoadsTheRate : Prop :=
  ∀ (s : State) (frames : Int) (num den : Nat), phaseBits s.regs ≠ Phase.ready.code →
    (Asm.setrate frames num den).wellFormed = true →
    ∃ t : State, runInstrs (expand (.setrate frames num den)) s = .next t ∧
      t.regs.pFrames = BitVec.ofInt 32 frames ∧ (fpsNum t.regs).toNat = num ∧ (fpsDen t.regs).toNat = den ∧
      (∀ r : Reg, r ∉ [Reg.pFrames, .pFpsnumLo, .pFpsnumHi, .pFpsdenLo, .pFpsdenHi] →
        t.regs.get r = s.regs.get r) ∧
      t.mem = s.mem ∧ t.trace = s.trace
end

