-- ==== Sys2Proof/Laws/Decode.lean ====
section
/-! SUPPORT. Lemmas about decoding and encoding: the fields of a joined word, the opcode map, and everything `decodeFields`
can answer. -/

namespace Sys2Proof

/-- The fields of a joined word are the joined fields (30_encoding.md R90). -/
@[simp] theorem fieldsOf_joinFields (f : Fields) : fieldsOf (joinFields f) = f := by
  obtain ⟨op, ra, rsv, imm⟩ := f
  simp only [fieldsOf, joinFields, Fields.mk.injEq]
  refine ⟨?_, ?_, ?_, ?_⟩ <;>
  · apply BitVec.eq_of_getLsbD_eq
    intro i hi
    simp only [BitVec.getLsbD_extractLsb', BitVec.getLsbD_append, hi, decide_true, Bool.true_and]
    interval_cases i <;> simp

/-- The opcode map names an opcode exactly for its number (30_encoding.md R93). -/
theorem opcodeOf_eq_some (op : BitVec 8) (o : Opcode) : opcodeOf op = some o ↔ o.number = op := by
  constructor
  · intro h
    simpa using List.find?_some h
  · rintro rfl
    cases o <;> rfl

/-- Four fields decode to a command exactly when they are the fields of that command's word (30_encoding.md R94). -/
theorem decodeFields_ok (f : Fields) (i : Instr) : decodeFields f = .ok i ↔ f = encodeFields i := by
  obtain ⟨op, ra, rsv, imm⟩ := f
  constructor
  · intro h
    unfold decodeFields at h
    split at h
    · cases h
    · rename_i o ho
      rw [opcodeOf_eq_some] at ho
      subst ho
      simp only at h
      split at h
      · cases h
      split at h
      · cases h
      split at h
      · cases h
      cases h
      rename_i h1 h2 h3
      simp only [not_not] at h1
      cases o <;> simp_all [encodeFields, buildInstr, Instr.opcode, Instr.raField, Instr.immField, Opcode.format,
        Format.usesRa, Format.usesImm]
  · rintro h
    rw [h]
    cases i <;> rfl

end Sys2Proof
end

