-- ==== Sys2Proof/Laws/Environment.lean ====
section
/-! SUPPORT. How a command ends: the phase check and the unanswered call, each said once. -/

namespace Sys2Proof.Machine

/-- A command of the idle phases answers a next state, `E_STATE` in session and its own effect otherwise. -/
theorem whenIdle_eq_next (s t : State) (k : State → State) :
    whenIdle s k = .next t ↔ t = if inSession s.regs then raise .state s else k s := by
  unfold whenIdle
  cases inSession s.regs <;> simp [eq_comm]

/-- A command that made calls ends in its own next state unless one of them is never answered. -/
theorem afterCalls_eq_next (s t u : State) :
    afterCalls s t = .next u ↔ u = t ∧ stallsBetween s.env s.trace.length t.trace.length = false := by
  unfold afterCalls
  cases stallsBetween s.env s.trace.length t.trace.length <;> simp [eq_comm]

/-- With an environment that answers every call, a command that made calls ends in its own next state. -/
theorem afterCalls_of_answers (s t : State) (h : s.env.stallAt = none) : afterCalls s t = .next t := by
  simp [afterCalls, stallsBetween, h]

end Sys2Proof.Machine
end

