-- ==== Sys2Proof/Laws/Flags.lean ====
section
/-! SUPPORT. Reading a field back after writing one: the fields of STATUS (spec/10_state.md R25), and the two general lemmas
about bit fields of a word they rest on. -/

namespace Sys2Proof.Machine

theorem getLsbD_setBits (w : Word) (lo : Nat) {n : Nat} (v : BitVec n) (i : Nat) (hi : i < 32) :
    (setBits w lo v).getLsbD i = if lo ≤ i ∧ i < lo + n then v.getLsbD (i - lo) else w.getLsbD i := by
  unfold setBits
  simp only [BitVec.getLsbD_or, BitVec.getLsbD_and, BitVec.getLsbD_not, BitVec.getLsbD_shiftLeft,
    BitVec.getLsbD_setWidth, BitVec.getLsbD_allOnes, hi, decide_true, Bool.true_and]
  have h32 : i - lo < 32 := by omega
  simp only [h32, decide_true, Bool.true_and]
  by_cases h1 : i < lo
  · have h2 : ¬(lo ≤ i ∧ i < lo + n) := by omega
    simp [h1, h2]
  · by_cases h2 : i < lo + n
    · have h3 : lo ≤ i ∧ i < lo + n := by omega
      have h4 : i - lo < n := by omega
      simp [h1, h3, h4]
    · have h3 : ¬(lo ≤ i ∧ i < lo + n) := by omega
      have h4 : ¬(i - lo < n) := by omega
      have h5 : v.getLsbD (i - lo) = false := BitVec.getLsbD_of_ge v _ (by omega)
      simp [h1, h3, h4, h5]

theorem bits_setBits_same (w : Word) (lo : Nat) {n : Nat} (v : BitVec n) (h : lo + n ≤ 32) :
    bits (setBits w lo v) lo n = v := by
  apply BitVec.eq_of_getLsbD_eq
  intro i hi
  rw [bits, BitVec.getLsbD_extractLsb', getLsbD_setBits _ _ _ _ (by omega)]
  have h1 : lo ≤ lo + i ∧ lo + i < lo + n := by omega
  simp [hi]

theorem bits_setBits_other (w : Word) (lo : Nat) {n : Nat} (v : BitVec n) (lo' n' : Nat)
    (h' : lo' + n' ≤ 32) (hd : lo + n ≤ lo' ∨ lo' + n' ≤ lo) : bits (setBits w lo v) lo' n' = bits w lo' n' := by
  apply BitVec.eq_of_getLsbD_eq
  intro i hi
  rw [bits, bits, BitVec.getLsbD_extractLsb', BitVec.getLsbD_extractLsb',
    getLsbD_setBits _ _ _ _ (by omega)]
  have h1 : ¬(lo ≤ lo' + i ∧ lo' + i < lo + n) := by omega
  simp [h1]

/-- Two words with the same 32 bits are equal. -/
theorem word_ext (v w : Word) (h : ∀ i < 32, v.getLsbD i = w.getLsbD i) : v = w :=
  BitVec.eq_of_getLsbD_eq fun i hi => h i hi

/-- The second of two writes of one field is the one that counts. -/
theorem setBits_overwrite (w : Word) (lo : Nat) {n : Nat} (v v' : BitVec n) :
    setBits (setBits w lo v) lo v' = setBits w lo v' := by
  refine word_ext _ _ fun i hi => ?_
  simp only [getLsbD_setBits _ _ _ _ hi]
  split <;> rfl

/-- Writing a field with the value it has changes nothing. -/
theorem setBits_bits (w : Word) (lo n : Nat) : setBits w lo (bits w lo n) = w := by
  refine word_ext _ _ fun i hi => ?_
  rw [getLsbD_setBits _ _ _ _ hi]
  split
  · rename_i hc
    rw [bits, BitVec.getLsbD_extractLsb']
    have : lo + (i - lo) = i := by omega
    rw [this]
    simp
    omega
  · rfl

/-- Writes of two disjoint fields commute. -/
theorem setBits_comm (w : Word) (lo lo' : Nat) {n n' : Nat} (v : BitVec n) (v' : BitVec n')
    (hd : lo + n ≤ lo' ∨ lo' + n' ≤ lo) :
    setBits (setBits w lo v) lo' v' = setBits (setBits w lo' v') lo v := by
  refine word_ext _ _ fun i hi => ?_
  simp only [getLsbD_setBits _ _ _ _ hi]
  split <;> split <;> first | rfl | omega

theorem ofBool_beq_one (b : Bool) : (BitVec.ofBool b == (1 : BitVec 1)) = b := by cases b <;> rfl

variable (f : RegFile) (p : Phase) (b : Bool) (e : BitVec 8)

@[simp] theorem phaseBits_setPhase : phaseBits (setPhase p f) = p.code := bits_setBits_same _ 0 _ (by omega)

@[simp] theorem haveEngine_setPhase : haveEngine (setPhase p f) = haveEngine f := by
  simp only [haveEngine, setPhase]
  rw [bits_setBits_other _ 0 _ 3 1 (by omega) (by omega)]

@[simp] theorem haveCtx_setPhase : haveCtx (setPhase p f) = haveCtx f := by
  simp only [haveCtx, setPhase]
  rw [bits_setBits_other _ 0 _ 4 1 (by omega) (by omega)]

@[simp] theorem haveNode_setPhase : haveNode (setPhase p f) = haveNode f := by
  simp only [haveNode, setPhase]
  rw [bits_setBits_other _ 0 _ 5 1 (by omega) (by omega)]

@[simp] theorem haveFrame_setPhase : haveFrame (setPhase p f) = haveFrame f := by
  simp only [haveFrame, setPhase]
  rw [bits_setBits_other _ 0 _ 6 1 (by omega) (by omega)]

@[simp] theorem errBits_setPhase : errBits (setPhase p f) = errBits f := bits_setBits_other _ 0 _ 8 8 (by omega) (by omega)

@[simp] theorem phaseBits_setHaveEngine : phaseBits (setHaveEngine b f) = phaseBits f := bits_setBits_other _ 3 _ 0 3 (by omega) (by omega)

@[simp] theorem haveEngine_setHaveEngine : haveEngine (setHaveEngine b f) = b := by
  simp only [haveEngine, setHaveEngine]
  rw [bits_setBits_same _ 3 _ (by omega), ofBool_beq_one]

@[simp] theorem haveCtx_setHaveEngine : haveCtx (setHaveEngine b f) = haveCtx f := by
  simp only [haveCtx, setHaveEngine]
  rw [bits_setBits_other _ 3 _ 4 1 (by omega) (by omega)]

@[simp] theorem haveNode_setHaveEngine : haveNode (setHaveEngine b f) = haveNode f := by
  simp only [haveNode, setHaveEngine]
  rw [bits_setBits_other _ 3 _ 5 1 (by omega) (by omega)]

@[simp] theorem haveFrame_setHaveEngine : haveFrame (setHaveEngine b f) = haveFrame f := by
  simp only [haveFrame, setHaveEngine]
  rw [bits_setBits_other _ 3 _ 6 1 (by omega) (by omega)]

@[simp] theorem errBits_setHaveEngine : errBits (setHaveEngine b f) = errBits f := bits_setBits_other _ 3 _ 8 8 (by omega) (by omega)

@[simp] theorem phaseBits_setHaveCtx : phaseBits (setHaveCtx b f) = phaseBits f := bits_setBits_other _ 4 _ 0 3 (by omega) (by omega)

@[simp] theorem haveEngine_setHaveCtx : haveEngine (setHaveCtx b f) = haveEngine f := by
  simp only [haveEngine, setHaveCtx]
  rw [bits_setBits_other _ 4 _ 3 1 (by omega) (by omega)]

@[simp] theorem haveCtx_setHaveCtx : haveCtx (setHaveCtx b f) = b := by
  simp only [haveCtx, setHaveCtx]
  rw [bits_setBits_same _ 4 _ (by omega), ofBool_beq_one]

@[simp] theorem haveNode_setHaveCtx : haveNode (setHaveCtx b f) = haveNode f := by
  simp only [haveNode, setHaveCtx]
  rw [bits_setBits_other _ 4 _ 5 1 (by omega) (by omega)]

@[simp] theorem haveFrame_setHaveCtx : haveFrame (setHaveCtx b f) = haveFrame f := by
  simp only [haveFrame, setHaveCtx]
  rw [bits_setBits_other _ 4 _ 6 1 (by omega) (by omega)]

@[simp] theorem errBits_setHaveCtx : errBits (setHaveCtx b f) = errBits f := bits_setBits_other _ 4 _ 8 8 (by omega) (by omega)

@[simp] theorem phaseBits_setHaveNode : phaseBits (setHaveNode b f) = phaseBits f := bits_setBits_other _ 5 _ 0 3 (by omega) (by omega)

@[simp] theorem haveEngine_setHaveNode : haveEngine (setHaveNode b f) = haveEngine f := by
  simp only [haveEngine, setHaveNode]
  rw [bits_setBits_other _ 5 _ 3 1 (by omega) (by omega)]

@[simp] theorem haveCtx_setHaveNode : haveCtx (setHaveNode b f) = haveCtx f := by
  simp only [haveCtx, setHaveNode]
  rw [bits_setBits_other _ 5 _ 4 1 (by omega) (by omega)]

@[simp] theorem haveNode_setHaveNode : haveNode (setHaveNode b f) = b := by
  simp only [haveNode, setHaveNode]
  rw [bits_setBits_same _ 5 _ (by omega), ofBool_beq_one]

@[simp] theorem haveFrame_setHaveNode : haveFrame (setHaveNode b f) = haveFrame f := by
  simp only [haveFrame, setHaveNode]
  rw [bits_setBits_other _ 5 _ 6 1 (by omega) (by omega)]

@[simp] theorem errBits_setHaveNode : errBits (setHaveNode b f) = errBits f := bits_setBits_other _ 5 _ 8 8 (by omega) (by omega)

@[simp] theorem phaseBits_setHaveFrame : phaseBits (setHaveFrame b f) = phaseBits f := bits_setBits_other _ 6 _ 0 3 (by omega) (by omega)

@[simp] theorem haveEngine_setHaveFrame : haveEngine (setHaveFrame b f) = haveEngine f := by
  simp only [haveEngine, setHaveFrame]
  rw [bits_setBits_other _ 6 _ 3 1 (by omega) (by omega)]

@[simp] theorem haveCtx_setHaveFrame : haveCtx (setHaveFrame b f) = haveCtx f := by
  simp only [haveCtx, setHaveFrame]
  rw [bits_setBits_other _ 6 _ 4 1 (by omega) (by omega)]

@[simp] theorem haveNode_setHaveFrame : haveNode (setHaveFrame b f) = haveNode f := by
  simp only [haveNode, setHaveFrame]
  rw [bits_setBits_other _ 6 _ 5 1 (by omega) (by omega)]

@[simp] theorem haveFrame_setHaveFrame : haveFrame (setHaveFrame b f) = b := by
  simp only [haveFrame, setHaveFrame]
  rw [bits_setBits_same _ 6 _ (by omega), ofBool_beq_one]

@[simp] theorem errBits_setHaveFrame : errBits (setHaveFrame b f) = errBits f := bits_setBits_other _ 6 _ 8 8 (by omega) (by omega)

@[simp] theorem phaseBits_setErr : phaseBits (setErr e f) = phaseBits f := bits_setBits_other _ 8 _ 0 3 (by omega) (by omega)

@[simp] theorem haveEngine_setErr : haveEngine (setErr e f) = haveEngine f := by
  simp only [haveEngine, setErr]
  rw [bits_setBits_other _ 8 _ 3 1 (by omega) (by omega)]

@[simp] theorem haveCtx_setErr : haveCtx (setErr e f) = haveCtx f := by
  simp only [haveCtx, setErr]
  rw [bits_setBits_other _ 8 _ 4 1 (by omega) (by omega)]

@[simp] theorem haveNode_setErr : haveNode (setErr e f) = haveNode f := by
  simp only [haveNode, setErr]
  rw [bits_setBits_other _ 8 _ 5 1 (by omega) (by omega)]

@[simp] theorem haveFrame_setErr : haveFrame (setErr e f) = haveFrame f := by
  simp only [haveFrame, setErr]
  rw [bits_setBits_other _ 8 _ 6 1 (by omega) (by omega)]

@[simp] theorem errBits_setErr : errBits (setErr e f) = e := bits_setBits_same _ 8 _ (by omega)

@[simp] theorem setPhase_setPhase (q : Phase) : setPhase q (setPhase p f) = setPhase q f := by
  simp only [setPhase, setBits_overwrite]

@[simp] theorem setHaveFrame_setHaveFrame (c : Bool) : setHaveFrame c (setHaveFrame b f) = setHaveFrame c f := by
  simp only [setHaveFrame, setBits_overwrite]

theorem setHaveFrame_setPhase : setHaveFrame b (setPhase p f) = setPhase p (setHaveFrame b f) := by
  simp only [setHaveFrame, setPhase, setBits_comm f.status 0 6 p.code (BitVec.ofBool b) (Or.inl (by decide))]

/-- Writing the phase the register file is in changes nothing. -/
theorem setPhase_self (h : phaseBits f = p.code) : setPhase p f = f := by
  have := setBits_bits f.status 0 3
  rw [phaseBits] at h
  rw [setPhase, ← h, this]

/-- Writing HAVE_FRAME with the value it has changes nothing. -/
theorem setHaveFrame_self (h : haveFrame f = b) : setHaveFrame b f = f := by
  have hb : BitVec.ofBool b = bits f.status 6 1 := by
    rw [haveFrame] at h
    generalize bits f.status 6 1 = v at h ⊢
    subst h
    revert v
    decide
  rw [setHaveFrame, hb, setBits_bits f.status 6 1]

/-- STATUS is its fields: two words that agree on them and have the reserved bits 7 and 31:16 at 0 are equal. -/
theorem status_ext (v w : Word) (h0 : bits v 0 3 = bits w 0 3) (h3 : bits v 3 1 = bits w 3 1)
    (h4 : bits v 4 1 = bits w 4 1) (h5 : bits v 5 1 = bits w 5 1) (h6 : bits v 6 1 = bits w 6 1)
    (h7 : bits v 7 1 = bits w 7 1) (h8 : bits v 8 8 = bits w 8 8) (h16 : bits v 16 16 = bits w 16 16) : v = w := by
  refine word_ext _ _ fun i hi => ?_
  have key : ∀ (lo n : Nat), bits v lo n = bits w lo n → lo ≤ i → i < lo + n → v.getLsbD i = w.getLsbD i := by
    intro lo n h h1 h2
    have := congrArg (fun x => x.getLsbD (i - lo)) h
    simp only [bits, BitVec.getLsbD_extractLsb'] at this
    rw [show lo + (i - lo) = i by omega] at this
    simpa [show i - lo < n by omega] using this
  by_cases i < 3 <;> [exact key 0 3 h0 (by omega) (by omega); skip]
  by_cases i < 4 <;> [exact key 3 1 h3 (by omega) (by omega); skip]
  by_cases i < 5 <;> [exact key 4 1 h4 (by omega) (by omega); skip]
  by_cases i < 6 <;> [exact key 5 1 h5 (by omega) (by omega); skip]
  by_cases i < 7 <;> [exact key 6 1 h6 (by omega) (by omega); skip]
  by_cases i < 8 <;> [exact key 7 1 h7 (by omega) (by omega); skip]
  by_cases i < 16 <;> [exact key 8 8 h8 (by omega) (by omega); exact key 16 16 h16 (by omega) (by omega)]

/-- A write of a STATUS field leaves the reserved bits 7 and 31:16. -/
@[simp] theorem setPhase_reserved : bits (setPhase p f).status 7 1 = bits f.status 7 1 ∧
    bits (setPhase p f).status 16 16 = bits f.status 16 16 :=
  ⟨bits_setBits_other _ 0 _ 7 1 (by omega) (by omega), bits_setBits_other _ 0 _ 16 16 (by omega) (by omega)⟩

@[simp] theorem setHaveEngine_reserved : bits (setHaveEngine b f).status 7 1 = bits f.status 7 1 ∧
    bits (setHaveEngine b f).status 16 16 = bits f.status 16 16 :=
  ⟨bits_setBits_other _ 3 _ 7 1 (by omega) (by omega), bits_setBits_other _ 3 _ 16 16 (by omega) (by omega)⟩

@[simp] theorem setHaveCtx_reserved : bits (setHaveCtx b f).status 7 1 = bits f.status 7 1 ∧
    bits (setHaveCtx b f).status 16 16 = bits f.status 16 16 :=
  ⟨bits_setBits_other _ 4 _ 7 1 (by omega) (by omega), bits_setBits_other _ 4 _ 16 16 (by omega) (by omega)⟩

@[simp] theorem setHaveNode_reserved : bits (setHaveNode b f).status 7 1 = bits f.status 7 1 ∧
    bits (setHaveNode b f).status 16 16 = bits f.status 16 16 :=
  ⟨bits_setBits_other _ 5 _ 7 1 (by omega) (by omega), bits_setBits_other _ 5 _ 16 16 (by omega) (by omega)⟩

@[simp] theorem setHaveFrame_reserved : bits (setHaveFrame b f).status 7 1 = bits f.status 7 1 ∧
    bits (setHaveFrame b f).status 16 16 = bits f.status 16 16 :=
  ⟨bits_setBits_other _ 6 _ 7 1 (by omega) (by omega), bits_setBits_other _ 6 _ 16 16 (by omega) (by omega)⟩

@[simp] theorem setErr_reserved : bits (setErr e f).status 7 1 = bits f.status 7 1 ∧
    bits (setErr e f).status 16 16 = bits f.status 16 16 :=
  ⟨bits_setBits_other _ 8 _ 7 1 (by omega) (by omega), bits_setBits_other _ 8 _ 16 16 (by omega) (by omega)⟩

/-- A write of a STATUS field leaves every other register. -/
@[simp] theorem setPhase_others : (setPhase p f).ctrl = f.ctrl ∧ (setPhase p f).scriptRef = f.scriptRef ∧ (setPhase p f).diag = f.diag ∧
    (setPhase p f).pFmt = f.pFmt ∧ (setPhase p f).pBps = f.pBps ∧ (setPhase p f).pPlanes = f.pPlanes ∧
    (setPhase p f).pSs = f.pSs ∧ (setPhase p f).pPacked = f.pPacked ∧ (setPhase p f).pWidth = f.pWidth ∧
    (setPhase p f).pHeight = f.pHeight ∧ (setPhase p f).pFrames = f.pFrames ∧ (setPhase p f).pFpsnumLo = f.pFpsnumLo ∧
    (setPhase p f).pFpsnumHi = f.pFpsnumHi ∧ (setPhase p f).pFpsdenLo = f.pFpsdenLo ∧ (setPhase p f).pFpsdenHi = f.pFpsdenHi ∧
    (setPhase p f).cFmt = f.cFmt ∧ (setPhase p f).pmode = f.pmode ∧ (setPhase p f).xsel = f.xsel ∧
    (setPhase p f).cWidth = f.cWidth ∧ (setPhase p f).cHeight = f.cHeight ∧ (setPhase p f).cFrames = f.cFrames ∧
    (setPhase p f).cFpsnum = f.cFpsnum ∧ (setPhase p f).cFpsden = f.cFpsden ∧ (setPhase p f).ctxH = f.ctxH ∧
    (setPhase p f).nodeH = f.nodeH ∧ (setPhase p f).frameH = f.frameH ∧ (setPhase p f).dstH = f.dstH ∧
    (setPhase p f).srcBase0 = f.srcBase0 ∧ (setPhase p f).srcStride0 = f.srcStride0 ∧ (setPhase p f).srcBase1 = f.srcBase1 ∧
    (setPhase p f).srcStride1 = f.srcStride1 ∧ (setPhase p f).srcBase2 = f.srcBase2 ∧ (setPhase p f).srcStride2 = f.srcStride2 ∧
    (setPhase p f).dstBase0 = f.dstBase0 ∧ (setPhase p f).dstStride0 = f.dstStride0 ∧ (setPhase p f).dstBase1 = f.dstBase1 ∧
    (setPhase p f).dstStride1 = f.dstStride1 ∧ (setPhase p f).dstBase2 = f.dstBase2 ∧ (setPhase p f).dstStride2 = f.dstStride2 := by
  refine ⟨?_, ?_, ?_, ?_, ?_, ?_, ?_, ?_, ?_, ?_, ?_, ?_, ?_, ?_, ?_, ?_, ?_, ?_, ?_, ?_, ?_, ?_, ?_, ?_, ?_, ?_, ?_, ?_, ?_, ?_, ?_, ?_, ?_, ?_, ?_, ?_, ?_, ?_, ?_⟩ <;> rfl

/-- A write of a STATUS field leaves every other register. -/
@[simp] theorem setHaveEngine_others : (setHaveEngine b f).ctrl = f.ctrl ∧ (setHaveEngine b f).scriptRef = f.scriptRef ∧ (setHaveEngine b f).diag = f.diag ∧
    (setHaveEngine b f).pFmt = f.pFmt ∧ (setHaveEngine b f).pBps = f.pBps ∧ (setHaveEngine b f).pPlanes = f.pPlanes ∧
    (setHaveEngine b f).pSs = f.pSs ∧ (setHaveEngine b f).pPacked = f.pPacked ∧ (setHaveEngine b f).pWidth = f.pWidth ∧
    (setHaveEngine b f).pHeight = f.pHeight ∧ (setHaveEngine b f).pFrames = f.pFrames ∧ (setHaveEngine b f).pFpsnumLo = f.pFpsnumLo ∧
    (setHaveEngine b f).pFpsnumHi = f.pFpsnumHi ∧ (setHaveEngine b f).pFpsdenLo = f.pFpsdenLo ∧ (setHaveEngine b f).pFpsdenHi = f.pFpsdenHi ∧
    (setHaveEngine b f).cFmt = f.cFmt ∧ (setHaveEngine b f).pmode = f.pmode ∧ (setHaveEngine b f).xsel = f.xsel ∧
    (setHaveEngine b f).cWidth = f.cWidth ∧ (setHaveEngine b f).cHeight = f.cHeight ∧ (setHaveEngine b f).cFrames = f.cFrames ∧
    (setHaveEngine b f).cFpsnum = f.cFpsnum ∧ (setHaveEngine b f).cFpsden = f.cFpsden ∧ (setHaveEngine b f).ctxH = f.ctxH ∧
    (setHaveEngine b f).nodeH = f.nodeH ∧ (setHaveEngine b f).frameH = f.frameH ∧ (setHaveEngine b f).dstH = f.dstH ∧
    (setHaveEngine b f).srcBase0 = f.srcBase0 ∧ (setHaveEngine b f).srcStride0 = f.srcStride0 ∧ (setHaveEngine b f).srcBase1 = f.srcBase1 ∧
    (setHaveEngine b f).srcStride1 = f.srcStride1 ∧ (setHaveEngine b f).srcBase2 = f.srcBase2 ∧ (setHaveEngine b f).srcStride2 = f.srcStride2 ∧
    (setHaveEngine b f).dstBase0 = f.dstBase0 ∧ (setHaveEngine b f).dstStride0 = f.dstStride0 ∧ (setHaveEngine b f).dstBase1 = f.dstBase1 ∧
    (setHaveEngine b f).dstStride1 = f.dstStride1 ∧ (setHaveEngine b f).dstBase2 = f.dstBase2 ∧ (setHaveEngine b f).dstStride2 = f.dstStride2 := by
  refine ⟨?_, ?_, ?_, ?_, ?_, ?_, ?_, ?_, ?_, ?_, ?_, ?_, ?_, ?_, ?_, ?_, ?_, ?_, ?_, ?_, ?_, ?_, ?_, ?_, ?_, ?_, ?_, ?_, ?_, ?_, ?_, ?_, ?_, ?_, ?_, ?_, ?_, ?_, ?_⟩ <;> rfl

/-- A write of a STATUS field leaves every other register. -/
@[simp] theorem setHaveCtx_others : (setHaveCtx b f).ctrl = f.ctrl ∧ (setHaveCtx b f).scriptRef = f.scriptRef ∧ (setHaveCtx b f).diag = f.diag ∧
    (setHaveCtx b f).pFmt = f.pFmt ∧ (setHaveCtx b f).pBps = f.pBps ∧ (setHaveCtx b f).pPlanes = f.pPlanes ∧
    (setHaveCtx b f).pSs = f.pSs ∧ (setHaveCtx b f).pPacked = f.pPacked ∧ (setHaveCtx b f).pWidth = f.pWidth ∧
    (setHaveCtx b f).pHeight = f.pHeight ∧ (setHaveCtx b f).pFrames = f.pFrames ∧ (setHaveCtx b f).pFpsnumLo = f.pFpsnumLo ∧
    (setHaveCtx b f).pFpsnumHi = f.pFpsnumHi ∧ (setHaveCtx b f).pFpsdenLo = f.pFpsdenLo ∧ (setHaveCtx b f).pFpsdenHi = f.pFpsdenHi ∧
    (setHaveCtx b f).cFmt = f.cFmt ∧ (setHaveCtx b f).pmode = f.pmode ∧ (setHaveCtx b f).xsel = f.xsel ∧
    (setHaveCtx b f).cWidth = f.cWidth ∧ (setHaveCtx b f).cHeight = f.cHeight ∧ (setHaveCtx b f).cFrames = f.cFrames ∧
    (setHaveCtx b f).cFpsnum = f.cFpsnum ∧ (setHaveCtx b f).cFpsden = f.cFpsden ∧ (setHaveCtx b f).ctxH = f.ctxH ∧
    (setHaveCtx b f).nodeH = f.nodeH ∧ (setHaveCtx b f).frameH = f.frameH ∧ (setHaveCtx b f).dstH = f.dstH ∧
    (setHaveCtx b f).srcBase0 = f.srcBase0 ∧ (setHaveCtx b f).srcStride0 = f.srcStride0 ∧ (setHaveCtx b f).srcBase1 = f.srcBase1 ∧
    (setHaveCtx b f).srcStride1 = f.srcStride1 ∧ (setHaveCtx b f).srcBase2 = f.srcBase2 ∧ (setHaveCtx b f).srcStride2 = f.srcStride2 ∧
    (setHaveCtx b f).dstBase0 = f.dstBase0 ∧ (setHaveCtx b f).dstStride0 = f.dstStride0 ∧ (setHaveCtx b f).dstBase1 = f.dstBase1 ∧
    (setHaveCtx b f).dstStride1 = f.dstStride1 ∧ (setHaveCtx b f).dstBase2 = f.dstBase2 ∧ (setHaveCtx b f).dstStride2 = f.dstStride2 := by
  refine ⟨?_, ?_, ?_, ?_, ?_, ?_, ?_, ?_, ?_, ?_, ?_, ?_, ?_, ?_, ?_, ?_, ?_, ?_, ?_, ?_, ?_, ?_, ?_, ?_, ?_, ?_, ?_, ?_, ?_, ?_, ?_, ?_, ?_, ?_, ?_, ?_, ?_, ?_, ?_⟩ <;> rfl

/-- A write of a STATUS field leaves every other register. -/
@[simp] theorem setHaveNode_others : (setHaveNode b f).ctrl = f.ctrl ∧ (setHaveNode b f).scriptRef = f.scriptRef ∧ (setHaveNode b f).diag = f.diag ∧
    (setHaveNode b f).pFmt = f.pFmt ∧ (setHaveNode b f).pBps = f.pBps ∧ (setHaveNode b f).pPlanes = f.pPlanes ∧
    (setHaveNode b f).pSs = f.pSs ∧ (setHaveNode b f).pPacked = f.pPacked ∧ (setHaveNode b f).pWidth = f.pWidth ∧
    (setHaveNode b f).pHeight = f.pHeight ∧ (setHaveNode b f).pFrames = f.pFrames ∧ (setHaveNode b f).pFpsnumLo = f.pFpsnumLo ∧
    (setHaveNode b f).pFpsnumHi = f.pFpsnumHi ∧ (setHaveNode b f).pFpsdenLo = f.pFpsdenLo ∧ (setHaveNode b f).pFpsdenHi = f.pFpsdenHi ∧
    (setHaveNode b f).cFmt = f.cFmt ∧ (setHaveNode b f).pmode = f.pmode ∧ (setHaveNode b f).xsel = f.xsel ∧
    (setHaveNode b f).cWidth = f.cWidth ∧ (setHaveNode b f).cHeight = f.cHeight ∧ (setHaveNode b f).cFrames = f.cFrames ∧
    (setHaveNode b f).cFpsnum = f.cFpsnum ∧ (setHaveNode b f).cFpsden = f.cFpsden ∧ (setHaveNode b f).ctxH = f.ctxH ∧
    (setHaveNode b f).nodeH = f.nodeH ∧ (setHaveNode b f).frameH = f.frameH ∧ (setHaveNode b f).dstH = f.dstH ∧
    (setHaveNode b f).srcBase0 = f.srcBase0 ∧ (setHaveNode b f).srcStride0 = f.srcStride0 ∧ (setHaveNode b f).srcBase1 = f.srcBase1 ∧
    (setHaveNode b f).srcStride1 = f.srcStride1 ∧ (setHaveNode b f).srcBase2 = f.srcBase2 ∧ (setHaveNode b f).srcStride2 = f.srcStride2 ∧
    (setHaveNode b f).dstBase0 = f.dstBase0 ∧ (setHaveNode b f).dstStride0 = f.dstStride0 ∧ (setHaveNode b f).dstBase1 = f.dstBase1 ∧
    (setHaveNode b f).dstStride1 = f.dstStride1 ∧ (setHaveNode b f).dstBase2 = f.dstBase2 ∧ (setHaveNode b f).dstStride2 = f.dstStride2 := by
  refine ⟨?_, ?_, ?_, ?_, ?_, ?_, ?_, ?_, ?_, ?_, ?_, ?_, ?_, ?_, ?_, ?_, ?_, ?_, ?_, ?_, ?_, ?_, ?_, ?_, ?_, ?_, ?_, ?_, ?_, ?_, ?_, ?_, ?_, ?_, ?_, ?_, ?_, ?_, ?_⟩ <;> rfl

/-- A write of a STATUS field leaves every other register. -/
@[simp] theorem setHaveFrame_others : (setHaveFrame b f).ctrl = f.ctrl ∧ (setHaveFrame b f).scriptRef = f.scriptRef ∧ (setHaveFrame b f).diag = f.diag ∧
    (setHaveFrame b f).pFmt = f.pFmt ∧ (setHaveFrame b f).pBps = f.pBps ∧ (setHaveFrame b f).pPlanes = f.pPlanes ∧
    (setHaveFrame b f).pSs = f.pSs ∧ (setHaveFrame b f).pPacked = f.pPacked ∧ (setHaveFrame b f).pWidth = f.pWidth ∧
    (setHaveFrame b f).pHeight = f.pHeight ∧ (setHaveFrame b f).pFrames = f.pFrames ∧ (setHaveFrame b f).pFpsnumLo = f.pFpsnumLo ∧
    (setHaveFrame b f).pFpsnumHi = f.pFpsnumHi ∧ (setHaveFrame b f).pFpsdenLo = f.pFpsdenLo ∧ (setHaveFrame b f).pFpsdenHi = f.pFpsdenHi ∧
    (setHaveFrame b f).cFmt = f.cFmt ∧ (setHaveFrame b f).pmode = f.pmode ∧ (setHaveFrame b f).xsel = f.xsel ∧
    (setHaveFrame b f).cWidth = f.cWidth ∧ (setHaveFrame b f).cHeight = f.cHeight ∧ (setHaveFrame b f).cFrames = f.cFrames ∧
    (setHaveFrame b f).cFpsnum = f.cFpsnum ∧ (setHaveFrame b f).cFpsden = f.cFpsden ∧ (setHaveFrame b f).ctxH = f.ctxH ∧
    (setHaveFrame b f).nodeH = f.nodeH ∧ (setHaveFrame b f).frameH = f.frameH ∧ (setHaveFrame b f).dstH = f.dstH ∧
    (setHaveFrame b f).srcBase0 = f.srcBase0 ∧ (setHaveFrame b f).srcStride0 = f.srcStride0 ∧ (setHaveFrame b f).srcBase1 = f.srcBase1 ∧
    (setHaveFrame b f).srcStride1 = f.srcStride1 ∧ (setHaveFrame b f).srcBase2 = f.srcBase2 ∧ (setHaveFrame b f).srcStride2 = f.srcStride2 ∧
    (setHaveFrame b f).dstBase0 = f.dstBase0 ∧ (setHaveFrame b f).dstStride0 = f.dstStride0 ∧ (setHaveFrame b f).dstBase1 = f.dstBase1 ∧
    (setHaveFrame b f).dstStride1 = f.dstStride1 ∧ (setHaveFrame b f).dstBase2 = f.dstBase2 ∧ (setHaveFrame b f).dstStride2 = f.dstStride2 := by
  refine ⟨?_, ?_, ?_, ?_, ?_, ?_, ?_, ?_, ?_, ?_, ?_, ?_, ?_, ?_, ?_, ?_, ?_, ?_, ?_, ?_, ?_, ?_, ?_, ?_, ?_, ?_, ?_, ?_, ?_, ?_, ?_, ?_, ?_, ?_, ?_, ?_, ?_, ?_, ?_⟩ <;> rfl

/-- A write of a STATUS field leaves every other register. -/
@[simp] theorem setErr_others : (setErr e f).ctrl = f.ctrl ∧ (setErr e f).scriptRef = f.scriptRef ∧ (setErr e f).diag = f.diag ∧
    (setErr e f).pFmt = f.pFmt ∧ (setErr e f).pBps = f.pBps ∧ (setErr e f).pPlanes = f.pPlanes ∧
    (setErr e f).pSs = f.pSs ∧ (setErr e f).pPacked = f.pPacked ∧ (setErr e f).pWidth = f.pWidth ∧
    (setErr e f).pHeight = f.pHeight ∧ (setErr e f).pFrames = f.pFrames ∧ (setErr e f).pFpsnumLo = f.pFpsnumLo ∧
    (setErr e f).pFpsnumHi = f.pFpsnumHi ∧ (setErr e f).pFpsdenLo = f.pFpsdenLo ∧ (setErr e f).pFpsdenHi = f.pFpsdenHi ∧
    (setErr e f).cFmt = f.cFmt ∧ (setErr e f).pmode = f.pmode ∧ (setErr e f).xsel = f.xsel ∧
    (setErr e f).cWidth = f.cWidth ∧ (setErr e f).cHeight = f.cHeight ∧ (setErr e f).cFrames = f.cFrames ∧
    (setErr e f).cFpsnum = f.cFpsnum ∧ (setErr e f).cFpsden = f.cFpsden ∧ (setErr e f).ctxH = f.ctxH ∧
    (setErr e f).nodeH = f.nodeH ∧ (setErr e f).frameH = f.frameH ∧ (setErr e f).dstH = f.dstH ∧
    (setErr e f).srcBase0 = f.srcBase0 ∧ (setErr e f).srcStride0 = f.srcStride0 ∧ (setErr e f).srcBase1 = f.srcBase1 ∧
    (setErr e f).srcStride1 = f.srcStride1 ∧ (setErr e f).srcBase2 = f.srcBase2 ∧ (setErr e f).srcStride2 = f.srcStride2 ∧
    (setErr e f).dstBase0 = f.dstBase0 ∧ (setErr e f).dstStride0 = f.dstStride0 ∧ (setErr e f).dstBase1 = f.dstBase1 ∧
    (setErr e f).dstStride1 = f.dstStride1 ∧ (setErr e f).dstBase2 = f.dstBase2 ∧ (setErr e f).dstStride2 = f.dstStride2 := by
  refine ⟨?_, ?_, ?_, ?_, ?_, ?_, ?_, ?_, ?_, ?_, ?_, ?_, ?_, ?_, ?_, ?_, ?_, ?_, ?_, ?_, ?_, ?_, ?_, ?_, ?_, ?_, ?_, ?_, ?_, ?_, ?_, ?_, ?_, ?_, ?_, ?_, ?_, ?_, ?_⟩ <;> rfl

end Sys2Proof.Machine
end

