-- ==== Sys2Proof/Laws/Memory.lean ====
section
/-! SUPPORT. The laws of the data memory: a byte reads back what was written, a write leaves every other byte, and every
memory operation keeps the canonical form. -/

namespace Sys2Proof.Machine

@[simp] theorem Memory.read_nil (a : Nat) : Memory.read [] a = Config.unlistedByte := rfl

theorem Memory.read_cons (b : Nat) (v : Byte) (m : Memory) (a : Nat) :
    Memory.read ((b, v) :: m) a = if b = a then v else Memory.read m a := rfl

/-- An address below every listed one is unlisted. -/
theorem Memory.read_of_lt (m : Memory) (a : Nat) (h : ∀ c ∈ m, a < c.1) : Memory.read m a = Config.unlistedByte := by
  induction m with
  | nil => rfl
  | cons c m ih =>
    obtain ⟨b, v⟩ := c
    have hb : a < b := h (b, v) (by simp)
    rw [Memory.read_cons, if_neg (by omega)]
    exact ih fun c hc => h c (by simp [hc])

/-- A write leaves every other address. -/
theorem Memory.read_write_other (m : Memory) (a b : Nat) (v : Byte) (h : b ≠ a) :
    Memory.read (Memory.write m a v) b = Memory.read m b := by
  induction m with
  | nil =>
    by_cases hv : v = Config.unlistedByte
    · simp [Memory.write, hv]
    · simp [Memory.write, hv, Memory.read_cons, Ne.symm h]
  | cons c m ih =>
    obtain ⟨x, w⟩ := c
    by_cases h1 : a < x
    · by_cases hv : v = Config.unlistedByte <;> simp [Memory.write, h1, hv, Memory.read_cons, Ne.symm h]
    · by_cases h2 : a = x
      · subst h2
        by_cases hv : v = Config.unlistedByte <;> simp [Memory.write, hv, Memory.read_cons, Ne.symm h]
      · simp [Memory.write, h1, h2, Memory.read_cons, ih]

/-- The entries of a memory after a write: the written one or an old one. -/
theorem Memory.mem_write (m : Memory) (a : Nat) (v : Byte) (c : Host.Cell) (h : c ∈ Memory.write m a v) :
    c ∈ m ∨ (c = (a, v) ∧ v ≠ Config.unlistedByte) := by
  induction m with
  | nil =>
    by_cases hv : v = Config.unlistedByte
    · simp [Memory.write, hv] at h
    · simp [Memory.write, hv] at h
      exact Or.inr ⟨h, hv⟩
  | cons e m ih =>
    obtain ⟨x, w⟩ := e
    by_cases h1 : a < x
    · by_cases hv : v = Config.unlistedByte
      · simp only [Memory.write, h1, hv, if_true] at h
        exact Or.inl h
      · simp only [Memory.write, h1, hv, if_true, if_false, List.mem_cons] at h
        rcases h with h | h
        · exact Or.inr ⟨h, hv⟩
        · exact Or.inl (by simpa using h)
    · by_cases h2 : a = x
      · by_cases hv : v = Config.unlistedByte
        · simp only [Memory.write, h2, hv, if_true] at h
          exact Or.inl (by
            have : c ∈ m := by simpa using h
            simp [this])
        · rw [Memory.write, if_neg h1, if_pos h2, if_neg hv, List.mem_cons] at h
          rcases h with h | h
          · exact Or.inr ⟨h, hv⟩
          · exact Or.inl (by simp [h])
      · rw [Memory.write, if_neg h1, if_neg h2, List.mem_cons] at h
        rcases h with h | h
        · exact Or.inl (by simp [h])
        · rcases ih h with h | h
          · exact Or.inl (by simp [h])
          · exact Or.inr h

theorem Memory.wf_tail {c : Host.Cell} {m : Memory} (h : Memory.wf (c :: m)) : Memory.wf m :=
  ⟨(List.pairwise_cons.mp h.1).2, fun d hd => h.2 d (by simp [hd])⟩

theorem Memory.wf_head_lt {c : Host.Cell} {m : Memory} (h : Memory.wf (c :: m)) : ∀ d ∈ m, c.1 < d.1 :=
  (List.pairwise_cons.mp h.1).1

/-- A byte reads back what was written. -/
theorem Memory.read_write_same (m : Memory) (a : Nat) (v : Byte) (hm : m.wf) :
    Memory.read (Memory.write m a v) a = v := by
  induction m with
  | nil =>
    by_cases hv : v = Config.unlistedByte
    · simp [Memory.write, hv]
    · simp [Memory.write, hv, Memory.read_cons]
  | cons c m ih =>
    obtain ⟨x, w⟩ := c
    have hlt := Memory.wf_head_lt hm
    by_cases h1 : a < x
    · by_cases hv : v = Config.unlistedByte
      · rw [Memory.write, if_pos h1, if_pos hv, hv]
        refine Memory.read_of_lt _ a ?_
        intro d hd
        rcases List.mem_cons.mp hd with rfl | hd
        · exact h1
        · exact Nat.lt_trans h1 (hlt d hd)
      · simp [Memory.write, h1, hv, Memory.read_cons]
    · by_cases h2 : a = x
      · subst h2
        by_cases hv : v = Config.unlistedByte
        · rw [Memory.write, if_neg h1, if_pos rfl, if_pos hv, hv]
          exact Memory.read_of_lt _ a fun d hd => hlt d hd
        · simp [Memory.write, hv, Memory.read_cons]
      · rw [Memory.write, if_neg h1, if_neg h2, Memory.read_cons, if_neg (Ne.symm h2)]
        exact ih (Memory.wf_tail hm)

/-- A write keeps the canonical form. -/
theorem Memory.write_wf (m : Memory) (a : Nat) (v : Byte) (hm : m.wf) (ha : a < 2 ^ 32) : (Memory.write m a v).wf := by
  refine ⟨?_, ?_⟩
  · induction m with
    | nil => by_cases hv : v = Config.unlistedByte <;> simp [Memory.write, hv]
    | cons c m ih =>
      obtain ⟨x, w⟩ := c
      have hlt := Memory.wf_head_lt hm
      have htl := (Memory.wf_tail hm).1
      by_cases h1 : a < x
      · by_cases hv : v = Config.unlistedByte
        · rw [Memory.write, if_pos h1, if_pos hv]
          exact hm.1
        · rw [Memory.write, if_pos h1, if_neg hv, List.pairwise_cons]
          refine ⟨?_, hm.1⟩
          intro d hd
          rcases List.mem_cons.mp hd with rfl | hd
          · exact h1
          · exact Nat.lt_trans h1 (hlt d hd)
      · by_cases h2 : a = x
        · subst h2
          by_cases hv : v = Config.unlistedByte
          · rw [Memory.write, if_neg h1, if_pos rfl, if_pos hv]
            exact htl
          · rw [Memory.write, if_neg h1, if_pos rfl, if_neg hv, List.pairwise_cons]
            exact ⟨fun d hd => hlt d hd, htl⟩
        · rw [Memory.write, if_neg h1, if_neg h2, List.pairwise_cons]
          refine ⟨?_, ih (Memory.wf_tail hm)⟩
          intro d hd
          rcases Memory.mem_write m a v d hd with hd | ⟨rfl, -⟩
          · exact hlt d hd
          · show x < a
            omega
  · intro c hc
    rcases Memory.mem_write m a v c hc with h | ⟨rfl, hv⟩
    · exact hm.2 c h
    · exact ⟨ha, hv⟩

/-- The canonical form of the empty memory. -/
theorem Memory.wf_nil : Memory.wf [] := ⟨List.Pairwise.nil, by simp⟩

/-- Memories in canonical form that read alike are equal. -/
theorem Memory.ext_of_wf (m m' : Memory) (hm : m.wf) (hm' : m'.wf) (h : ∀ a, Memory.read m a = Memory.read m' a) :
    m = m' := by
  induction m generalizing m' with
  | nil =>
    cases m' with
    | nil => rfl
    | cons c m' =>
      have h1 := h c.1
      obtain ⟨b, v⟩ := c
      rw [Memory.read_nil, Memory.read_cons, if_pos rfl] at h1
      exact absurd h1.symm (hm'.2 (b, v) (by simp)).2
  | cons c m ih =>
    obtain ⟨b, v⟩ := c
    have hv : v ≠ Config.unlistedByte := (hm.2 (b, v) (by simp)).2
    cases m' with
    | nil =>
      have h1 := h b
      rw [Memory.read_nil, Memory.read_cons, if_pos rfl] at h1
      exact absurd h1 hv
    | cons c' m' =>
      obtain ⟨b', v'⟩ := c'
      have hv' : v' ≠ Config.unlistedByte := (hm'.2 (b', v') (by simp)).2
      have hlt := Memory.wf_head_lt hm
      have hlt' := Memory.wf_head_lt hm'
      have hbb : b = b' := by
        rcases Nat.lt_trichotomy b b' with hb | hb | hb
        · have h1 := h b
          rw [Memory.read_cons, if_pos rfl, Memory.read_cons, if_neg (by omega)] at h1
          rw [Memory.read_of_lt m' b (fun d hd => Nat.lt_trans hb (hlt' d hd))] at h1
          exact absurd h1 hv
        · exact hb
        · have h1 := h b'
          rw [Memory.read_cons, if_neg (by omega), Memory.read_cons, if_pos rfl] at h1
          rw [Memory.read_of_lt m b' (fun d hd => Nat.lt_trans hb (hlt d hd))] at h1
          exact absurd h1.symm hv'
      subst hbb
      have hvv : v = v' := by
        have h1 := h b
        simpa [Memory.read_cons] using h1
      subst hvv
      congr 1
      refine ih m' (Memory.wf_tail hm) (Memory.wf_tail hm') ?_
      intro a
      by_cases ha : b = a
      · subst ha
        rw [Memory.read_of_lt m b (fun d hd => hlt d hd), Memory.read_of_lt m' b (fun d hd => hlt' d hd)]
      · have h1 := h a
        rwa [Memory.read_cons, if_neg ha, Memory.read_cons, if_neg ha] at h1

/-- A byte write of the machine: the byte at its address, every other byte as before. -/
theorem memByte_write (m : Memory) (a b : Word) (v : Byte) (hm : m.wf) :
    memByte (Memory.write m a.toNat v) b = if b = a then v else memByte m b := by
  unfold memByte
  by_cases h : b = a
  · subst h
    rw [if_pos rfl, Memory.read_write_same m _ v hm]
  · rw [if_neg h, Memory.read_write_other m _ _ v (fun hn => h (BitVec.eq_of_toNat_eq hn))]

theorem memByte_write_other (m : Memory) (a b : Word) (v : Byte) (h : b ≠ a) :
    memByte (Memory.write m a.toNat v) b = memByte m b :=
  Memory.read_write_other m _ _ v (fun hn => h (BitVec.eq_of_toNat_eq hn))

/-- Free bytes keep the canonical form. -/
theorem scrambleMem_wf (k : Nat) (as : List Word) (m : Memory) (hm : m.wf) : (scrambleMem k m as).wf := by
  induction as generalizing m with
  | nil => exact hm
  | cons a as ih => exact ih _ (Memory.write_wf m a.toNat _ hm a.isLt)

/-- Free bytes leave every byte outside their addresses. -/
theorem memByte_scrambleMem (k : Nat) (as : List Word) (m : Memory) (b : Word) (h : b ∉ as) :
    memByte (scrambleMem k m as) b = memByte m b := by
  induction as generalizing m with
  | nil => rfl
  | cons a as ih =>
    rw [List.mem_cons, not_or] at h
    rw [scrambleMem, ih _ h.2, memByte_write_other m a b _ h.1]

end Sys2Proof.Machine
end

