-- ==== Sys2Proof/Laws/State.lean ====
section
/-! SUPPORT. One lemma per field per update of the state, each true by rfl, so that no proof unfolds a record update. -/

namespace Sys2Proof.Machine

@[simp] theorem respondOk_regs (data : List Word) (s : State) :
    (respondOk data s).regs = s.regs := rfl

@[simp] theorem respondOk_trace (data : List Word) (s : State) :
    (respondOk data s).trace = s.trace := rfl

@[simp] theorem respondOk_responses (data : List Word) (s : State) :
    (respondOk data s).responses = s.responses ++ [{ code := 0, data := data }] := rfl

@[simp] theorem respondOk_mem (data : List Word) (s : State) :
    (respondOk data s).mem = s.mem := rfl

@[simp] theorem respondOk_commands (data : List Word) (s : State) :
    (respondOk data s).commands = s.commands := rfl

@[simp] theorem respondOk_index (data : List Word) (s : State) :
    (respondOk data s).index = s.index := rfl

@[simp] theorem respondOk_env (data : List Word) (s : State) :
    (respondOk data s).env = s.env := rfl

@[simp] theorem respondOk_platform (data : List Word) (s : State) :
    (respondOk data s).platform = s.platform := rfl

@[simp] theorem respondOk_freeIndex (data : List Word) (s : State) :
    (respondOk data s).freeIndex = s.freeIndex := rfl

@[simp] theorem raise_regs (e : ErrCode) (s : State) :
    (raise e s).regs = s.regs := rfl

@[simp] theorem raise_trace (e : ErrCode) (s : State) :
    (raise e s).trace = s.trace := rfl

@[simp] theorem raise_responses (e : ErrCode) (s : State) :
    (raise e s).responses = s.responses ++ [{ code := e.code, data := [] }] := rfl

@[simp] theorem raise_mem (e : ErrCode) (s : State) :
    (raise e s).mem = s.mem := rfl

@[simp] theorem raise_commands (e : ErrCode) (s : State) :
    (raise e s).commands = s.commands := rfl

@[simp] theorem raise_index (e : ErrCode) (s : State) :
    (raise e s).index = s.index := rfl

@[simp] theorem raise_env (e : ErrCode) (s : State) :
    (raise e s).env = s.env := rfl

@[simp] theorem raise_platform (e : ErrCode) (s : State) :
    (raise e s).platform = s.platform := rfl

@[simp] theorem raise_freeIndex (e : ErrCode) (s : State) :
    (raise e s).freeIndex = s.freeIndex := rfl

@[simp] theorem advance_regs (s : State) :
    (advance s).regs = s.regs := rfl

@[simp] theorem advance_trace (s : State) :
    (advance s).trace = s.trace := rfl

@[simp] theorem advance_responses (s : State) :
    (advance s).responses = s.responses := rfl

@[simp] theorem advance_mem (s : State) :
    (advance s).mem = s.mem := rfl

@[simp] theorem advance_commands (s : State) :
    (advance s).commands = s.commands := rfl

@[simp] theorem advance_index (s : State) :
    (advance s).index = s.index + 1 := rfl

@[simp] theorem advance_env (s : State) :
    (advance s).env = s.env := rfl

@[simp] theorem advance_platform (s : State) :
    (advance s).platform = s.platform := rfl

@[simp] theorem advance_freeIndex (s : State) :
    (advance s).freeIndex = s.freeIndex := rfl

@[simp] theorem platformReset_regs (s : State) :
    (platformReset s).regs = RegFile.zero := rfl

@[simp] theorem platformReset_trace (s : State) :
    (platformReset s).trace = [] := rfl

@[simp] theorem platformReset_responses (s : State) :
    (platformReset s).responses = [] := rfl

@[simp] theorem platformReset_mem (s : State) :
    (platformReset s).mem = s.mem := rfl

@[simp] theorem platformReset_commands (s : State) :
    (platformReset s).commands = s.commands := rfl

@[simp] theorem platformReset_index (s : State) :
    (platformReset s).index = s.index := rfl

@[simp] theorem platformReset_env (s : State) :
    (platformReset s).env = s.env := rfl

@[simp] theorem platformReset_platform (s : State) :
    (platformReset s).platform = s.platform := rfl

@[simp] theorem platformReset_freeIndex (s : State) :
    (platformReset s).freeIndex = s.freeIndex := rfl

@[simp] theorem scramble_regs (as : List Word) (s : State) :
    (scramble as s).regs = s.regs := rfl

@[simp] theorem scramble_trace (as : List Word) (s : State) :
    (scramble as s).trace = s.trace := rfl

@[simp] theorem scramble_responses (as : List Word) (s : State) :
    (scramble as s).responses = s.responses := rfl

@[simp] theorem scramble_mem (as : List Word) (s : State) :
    (scramble as s).mem = scrambleMem s.freeIndex s.mem as := rfl

@[simp] theorem scramble_commands (as : List Word) (s : State) :
    (scramble as s).commands = s.commands := rfl

@[simp] theorem scramble_index (as : List Word) (s : State) :
    (scramble as s).index = s.index := rfl

@[simp] theorem scramble_env (as : List Word) (s : State) :
    (scramble as s).env = s.env := rfl

@[simp] theorem scramble_platform (as : List Word) (s : State) :
    (scramble as s).platform = s.platform := rfl

@[simp] theorem scramble_freeIndex (as : List Word) (s : State) :
    (scramble as s).freeIndex = s.freeIndex + 1 := rfl

@[simp] theorem record_regs (e : EnvEvent) (s : State) :
    (record e s).regs = s.regs := rfl

@[simp] theorem record_trace (e : EnvEvent) (s : State) :
    (record e s).trace = s.trace ++ [e] := rfl

@[simp] theorem record_responses (e : EnvEvent) (s : State) :
    (record e s).responses = s.responses := rfl

@[simp] theorem record_mem (e : EnvEvent) (s : State) :
    (record e s).mem = s.mem := rfl

@[simp] theorem record_commands (e : EnvEvent) (s : State) :
    (record e s).commands = s.commands := rfl

@[simp] theorem record_index (e : EnvEvent) (s : State) :
    (record e s).index = s.index := rfl

@[simp] theorem record_env (e : EnvEvent) (s : State) :
    (record e s).env = s.env := rfl

@[simp] theorem record_platform (e : EnvEvent) (s : State) :
    (record e s).platform = s.platform := rfl

@[simp] theorem record_freeIndex (e : EnvEvent) (s : State) :
    (record e s).freeIndex = s.freeIndex := rfl

@[simp] theorem onRegs_regs (g : RegFile → RegFile) (s : State) :
    (onRegs g s).regs = g s.regs := rfl

@[simp] theorem onRegs_trace (g : RegFile → RegFile) (s : State) :
    (onRegs g s).trace = s.trace := rfl

@[simp] theorem onRegs_responses (g : RegFile → RegFile) (s : State) :
    (onRegs g s).responses = s.responses := rfl

@[simp] theorem onRegs_mem (g : RegFile → RegFile) (s : State) :
    (onRegs g s).mem = s.mem := rfl

@[simp] theorem onRegs_commands (g : RegFile → RegFile) (s : State) :
    (onRegs g s).commands = s.commands := rfl

@[simp] theorem onRegs_index (g : RegFile → RegFile) (s : State) :
    (onRegs g s).index = s.index := rfl

@[simp] theorem onRegs_env (g : RegFile → RegFile) (s : State) :
    (onRegs g s).env = s.env := rfl

@[simp] theorem onRegs_platform (g : RegFile → RegFile) (s : State) :
    (onRegs g s).platform = s.platform := rfl

@[simp] theorem onRegs_freeIndex (g : RegFile → RegFile) (s : State) :
    (onRegs g s).freeIndex = s.freeIndex := rfl

@[simp] theorem callReleaseFrame_regs (x : Word) (s : State) :
    (callReleaseFrame x s).regs = s.regs := rfl

@[simp] theorem callReleaseFrame_trace (x : Word) (s : State) :
    (callReleaseFrame x s).trace = s.trace ++ [.releaseFrame x] := rfl

@[simp] theorem callReleaseFrame_responses (x : Word) (s : State) :
    (callReleaseFrame x s).responses = s.responses := rfl

@[simp] theorem callReleaseFrame_mem (x : Word) (s : State) :
    (callReleaseFrame x s).mem = s.mem := rfl

@[simp] theorem callReleaseFrame_commands (x : Word) (s : State) :
    (callReleaseFrame x s).commands = s.commands := rfl

@[simp] theorem callReleaseFrame_index (x : Word) (s : State) :
    (callReleaseFrame x s).index = s.index := rfl

@[simp] theorem callReleaseFrame_env (x : Word) (s : State) :
    (callReleaseFrame x s).env = s.env := rfl

@[simp] theorem callReleaseFrame_platform (x : Word) (s : State) :
    (callReleaseFrame x s).platform = s.platform := rfl

@[simp] theorem callReleaseFrame_freeIndex (x : Word) (s : State) :
    (callReleaseFrame x s).freeIndex = s.freeIndex := rfl

@[simp] theorem callReleaseNode_regs (x : Word) (s : State) :
    (callReleaseNode x s).regs = s.regs := rfl

@[simp] theorem callReleaseNode_trace (x : Word) (s : State) :
    (callReleaseNode x s).trace = s.trace ++ [.releaseNode x] := rfl

@[simp] theorem callReleaseNode_responses (x : Word) (s : State) :
    (callReleaseNode x s).responses = s.responses := rfl

@[simp] theorem callReleaseNode_mem (x : Word) (s : State) :
    (callReleaseNode x s).mem = s.mem := rfl

@[simp] theorem callReleaseNode_commands (x : Word) (s : State) :
    (callReleaseNode x s).commands = s.commands := rfl

@[simp] theorem callReleaseNode_index (x : Word) (s : State) :
    (callReleaseNode x s).index = s.index := rfl

@[simp] theorem callReleaseNode_env (x : Word) (s : State) :
    (callReleaseNode x s).env = s.env := rfl

@[simp] theorem callReleaseNode_platform (x : Word) (s : State) :
    (callReleaseNode x s).platform = s.platform := rfl

@[simp] theorem callReleaseNode_freeIndex (x : Word) (s : State) :
    (callReleaseNode x s).freeIndex = s.freeIndex := rfl

@[simp] theorem callReleaseContext_regs (x : Word) (s : State) :
    (callReleaseContext x s).regs = s.regs := rfl

@[simp] theorem callReleaseContext_trace (x : Word) (s : State) :
    (callReleaseContext x s).trace = s.trace ++ [.releaseContext x] := rfl

@[simp] theorem callReleaseContext_responses (x : Word) (s : State) :
    (callReleaseContext x s).responses = s.responses := rfl

@[simp] theorem callReleaseContext_mem (x : Word) (s : State) :
    (callReleaseContext x s).mem = s.mem := rfl

@[simp] theorem callReleaseContext_commands (x : Word) (s : State) :
    (callReleaseContext x s).commands = s.commands := rfl

@[simp] theorem callReleaseContext_index (x : Word) (s : State) :
    (callReleaseContext x s).index = s.index := rfl

@[simp] theorem callReleaseContext_env (x : Word) (s : State) :
    (callReleaseContext x s).env = s.env := rfl

@[simp] theorem callReleaseContext_platform (x : Word) (s : State) :
    (callReleaseContext x s).platform = s.platform := rfl

@[simp] theorem callReleaseContext_freeIndex (x : Word) (s : State) :
    (callReleaseContext x s).freeIndex = s.freeIndex := rfl

@[simp] theorem callEngineRelease_regs (s : State) :
    (callEngineRelease s).regs = s.regs := rfl

@[simp] theorem callEngineRelease_trace (s : State) :
    (callEngineRelease s).trace = s.trace ++ [.engineRelease] := rfl

@[simp] theorem callEngineRelease_responses (s : State) :
    (callEngineRelease s).responses = s.responses := rfl

@[simp] theorem callEngineRelease_mem (s : State) :
    (callEngineRelease s).mem = s.mem := rfl

@[simp] theorem callEngineRelease_commands (s : State) :
    (callEngineRelease s).commands = s.commands := rfl

@[simp] theorem callEngineRelease_index (s : State) :
    (callEngineRelease s).index = s.index := rfl

@[simp] theorem callEngineRelease_env (s : State) :
    (callEngineRelease s).env = s.env := rfl

@[simp] theorem callEngineRelease_platform (s : State) :
    (callEngineRelease s).platform = s.platform := rfl

@[simp] theorem callEngineRelease_freeIndex (s : State) :
    (callEngineRelease s).freeIndex = s.freeIndex := rfl

@[simp] theorem releaseFrame_regs (s : State) :
    (releaseFrame s).regs = { setHaveFrame false s.regs with frameH := 0 } := rfl

@[simp] theorem releaseFrame_trace (s : State) :
    (releaseFrame s).trace = s.trace ++ [.releaseFrame s.regs.frameH] := rfl

@[simp] theorem releaseFrame_responses (s : State) :
    (releaseFrame s).responses = s.responses := rfl

@[simp] theorem releaseFrame_mem (s : State) :
    (releaseFrame s).mem = s.mem := rfl

@[simp] theorem releaseFrame_commands (s : State) :
    (releaseFrame s).commands = s.commands := rfl

@[simp] theorem releaseFrame_index (s : State) :
    (releaseFrame s).index = s.index := rfl

@[simp] theorem releaseFrame_env (s : State) :
    (releaseFrame s).env = s.env := rfl

@[simp] theorem releaseFrame_platform (s : State) :
    (releaseFrame s).platform = s.platform := rfl

@[simp] theorem releaseFrame_freeIndex (s : State) :
    (releaseFrame s).freeIndex = s.freeIndex := rfl

@[simp] theorem callInitializeEngine_regs (s : State) :
    (callInitializeEngine s).2.regs = s.regs := rfl

@[simp] theorem callInitializeEngine_trace (s : State) :
    (callInitializeEngine s).2.trace = s.trace ++ [.initializeEngine (answerInitializeEngine s)] := rfl

@[simp] theorem callInitializeEngine_responses (s : State) :
    (callInitializeEngine s).2.responses = s.responses := rfl

@[simp] theorem callInitializeEngine_mem (s : State) :
    (callInitializeEngine s).2.mem = s.mem := rfl

@[simp] theorem callInitializeEngine_commands (s : State) :
    (callInitializeEngine s).2.commands = s.commands := rfl

@[simp] theorem callInitializeEngine_index (s : State) :
    (callInitializeEngine s).2.index = s.index := rfl

@[simp] theorem callInitializeEngine_env (s : State) :
    (callInitializeEngine s).2.env = { s.env with initializeEngine := s.env.initializeEngine.tail } := rfl

@[simp] theorem callInitializeEngine_platform (s : State) :
    (callInitializeEngine s).2.platform = s.platform := rfl

@[simp] theorem callInitializeEngine_freeIndex (s : State) :
    (callInitializeEngine s).2.freeIndex = s.freeIndex := rfl

@[simp] theorem callEvaluate_regs (r : Word) (b : Bool) (s : State) :
    (callEvaluate r b s).2.regs = s.regs := rfl

@[simp] theorem callEvaluate_trace (r : Word) (b : Bool) (s : State) :
    (callEvaluate r b s).2.trace = s.trace ++ [.evaluate r b (answerEvaluate r b s)] := rfl

@[simp] theorem callEvaluate_responses (r : Word) (b : Bool) (s : State) :
    (callEvaluate r b s).2.responses = s.responses := rfl

@[simp] theorem callEvaluate_mem (r : Word) (b : Bool) (s : State) :
    (callEvaluate r b s).2.mem = s.mem := rfl

@[simp] theorem callEvaluate_commands (r : Word) (b : Bool) (s : State) :
    (callEvaluate r b s).2.commands = s.commands := rfl

@[simp] theorem callEvaluate_index (r : Word) (b : Bool) (s : State) :
    (callEvaluate r b s).2.index = s.index := rfl

@[simp] theorem callEvaluate_env (r : Word) (b : Bool) (s : State) :
    (callEvaluate r b s).2.env = { s.env with evaluate := s.env.evaluate.tail } := rfl

@[simp] theorem callEvaluate_platform (r : Word) (b : Bool) (s : State) :
    (callEvaluate r b s).2.platform = s.platform := rfl

@[simp] theorem callEvaluate_freeIndex (r : Word) (b : Bool) (s : State) :
    (callEvaluate r b s).2.freeIndex = s.freeIndex := rfl

@[simp] theorem callGetOutputNode_regs (c : Word) (i : BitVec 8) (s : State) :
    (callGetOutputNode c i s).2.regs = s.regs := rfl

@[simp] theorem callGetOutputNode_trace (c : Word) (i : BitVec 8) (s : State) :
    (callGetOutputNode c i s).2.trace = s.trace ++ [.getOutputNode c i (answerGetOutputNode c i s)] := rfl

@[simp] theorem callGetOutputNode_responses (c : Word) (i : BitVec 8) (s : State) :
    (callGetOutputNode c i s).2.responses = s.responses := rfl

@[simp] theorem callGetOutputNode_mem (c : Word) (i : BitVec 8) (s : State) :
    (callGetOutputNode c i s).2.mem = s.mem := rfl

@[simp] theorem callGetOutputNode_commands (c : Word) (i : BitVec 8) (s : State) :
    (callGetOutputNode c i s).2.commands = s.commands := rfl

@[simp] theorem callGetOutputNode_index (c : Word) (i : BitVec 8) (s : State) :
    (callGetOutputNode c i s).2.index = s.index := rfl

@[simp] theorem callGetOutputNode_env (c : Word) (i : BitVec 8) (s : State) :
    (callGetOutputNode c i s).2.env = { s.env with getOutputNode := s.env.getOutputNode.tail } := rfl

@[simp] theorem callGetOutputNode_platform (c : Word) (i : BitVec 8) (s : State) :
    (callGetOutputNode c i s).2.platform = s.platform := rfl

@[simp] theorem callGetOutputNode_freeIndex (c : Word) (i : BitVec 8) (s : State) :
    (callGetOutputNode c i s).2.freeIndex = s.freeIndex := rfl

@[simp] theorem callGetFormatDescriptor_regs (nd : Word) (s : State) :
    (callGetFormatDescriptor nd s).2.regs = s.regs := rfl

@[simp] theorem callGetFormatDescriptor_trace (nd : Word) (s : State) :
    (callGetFormatDescriptor nd s).2.trace = s.trace ++ [.getFormatDescriptor nd (answerGetFormatDescriptor nd s)] := rfl

@[simp] theorem callGetFormatDescriptor_responses (nd : Word) (s : State) :
    (callGetFormatDescriptor nd s).2.responses = s.responses := rfl

@[simp] theorem callGetFormatDescriptor_mem (nd : Word) (s : State) :
    (callGetFormatDescriptor nd s).2.mem = s.mem := rfl

@[simp] theorem callGetFormatDescriptor_commands (nd : Word) (s : State) :
    (callGetFormatDescriptor nd s).2.commands = s.commands := rfl

@[simp] theorem callGetFormatDescriptor_index (nd : Word) (s : State) :
    (callGetFormatDescriptor nd s).2.index = s.index := rfl

@[simp] theorem callGetFormatDescriptor_env (nd : Word) (s : State) :
    (callGetFormatDescriptor nd s).2.env = { s.env with getFormatDescriptor := s.env.getFormatDescriptor.tail } := rfl

@[simp] theorem callGetFormatDescriptor_platform (nd : Word) (s : State) :
    (callGetFormatDescriptor nd s).2.platform = s.platform := rfl

@[simp] theorem callGetFormatDescriptor_freeIndex (nd : Word) (s : State) :
    (callGetFormatDescriptor nd s).2.freeIndex = s.freeIndex := rfl

@[simp] theorem callGetFrame_regs (nd n : Word) (s : State) :
    (callGetFrame nd n s).2.regs = s.regs := rfl

@[simp] theorem callGetFrame_trace (nd n : Word) (s : State) :
    (callGetFrame nd n s).2.trace = s.trace ++ [.getFrame nd n (answerGetFrame nd n s)] := rfl

@[simp] theorem callGetFrame_responses (nd n : Word) (s : State) :
    (callGetFrame nd n s).2.responses = s.responses := rfl

@[simp] theorem callGetFrame_mem (nd n : Word) (s : State) :
    (callGetFrame nd n s).2.mem = s.mem := rfl

@[simp] theorem callGetFrame_commands (nd n : Word) (s : State) :
    (callGetFrame nd n s).2.commands = s.commands := rfl

@[simp] theorem callGetFrame_index (nd n : Word) (s : State) :
    (callGetFrame nd n s).2.index = s.index := rfl

@[simp] theorem callGetFrame_env (nd n : Word) (s : State) :
    (callGetFrame nd n s).2.env = { s.env with getFrame := s.env.getFrame.tail } := rfl

@[simp] theorem callGetFrame_platform (nd n : Word) (s : State) :
    (callGetFrame nd n s).2.platform = s.platform := rfl

@[simp] theorem callGetFrame_freeIndex (nd n : Word) (s : State) :
    (callGetFrame nd n s).2.freeIndex = s.freeIndex := rfl

@[simp] theorem callGetPlaneData_regs (fr : Word) (p : Plane) (s : State) :
    (callGetPlaneData fr p s).2.regs = s.regs := rfl

@[simp] theorem callGetPlaneData_trace (fr : Word) (p : Plane) (s : State) :
    (callGetPlaneData fr p s).2.trace = s.trace ++ [.getPlaneData fr p (answerGetPlaneData fr p s)] := rfl

@[simp] theorem callGetPlaneData_responses (fr : Word) (p : Plane) (s : State) :
    (callGetPlaneData fr p s).2.responses = s.responses := rfl

@[simp] theorem callGetPlaneData_mem (fr : Word) (p : Plane) (s : State) :
    (callGetPlaneData fr p s).2.mem = s.mem := rfl

@[simp] theorem callGetPlaneData_commands (fr : Word) (p : Plane) (s : State) :
    (callGetPlaneData fr p s).2.commands = s.commands := rfl

@[simp] theorem callGetPlaneData_index (fr : Word) (p : Plane) (s : State) :
    (callGetPlaneData fr p s).2.index = s.index := rfl

@[simp] theorem callGetPlaneData_env (fr : Word) (p : Plane) (s : State) :
    (callGetPlaneData fr p s).2.env = { s.env with getPlaneData := s.env.getPlaneData.tail } := rfl

@[simp] theorem callGetPlaneData_platform (fr : Word) (p : Plane) (s : State) :
    (callGetPlaneData fr p s).2.platform = s.platform := rfl

@[simp] theorem callGetPlaneData_freeIndex (fr : Word) (p : Plane) (s : State) :
    (callGetPlaneData fr p s).2.freeIndex = s.freeIndex := rfl

@[simp] theorem callAllocFrame_regs (c w h : Word) (s : State) :
    (callAllocFrame c w h s).2.regs = s.regs := rfl

@[simp] theorem callAllocFrame_trace (c w h : Word) (s : State) :
    (callAllocFrame c w h s).2.trace = s.trace ++ [.allocFrame c w h (answerAllocFrame c w h s)] := rfl

@[simp] theorem callAllocFrame_responses (c w h : Word) (s : State) :
    (callAllocFrame c w h s).2.responses = s.responses := rfl

@[simp] theorem callAllocFrame_mem (c w h : Word) (s : State) :
    (callAllocFrame c w h s).2.mem = s.mem := rfl

@[simp] theorem callAllocFrame_commands (c w h : Word) (s : State) :
    (callAllocFrame c w h s).2.commands = s.commands := rfl

@[simp] theorem callAllocFrame_index (c w h : Word) (s : State) :
    (callAllocFrame c w h s).2.index = s.index := rfl

@[simp] theorem callAllocFrame_env (c w h : Word) (s : State) :
    (callAllocFrame c w h s).2.env = { s.env with allocFrame := s.env.allocFrame.tail } := rfl

@[simp] theorem callAllocFrame_platform (c w h : Word) (s : State) :
    (callAllocFrame c w h s).2.platform = s.platform := rfl

@[simp] theorem callAllocFrame_freeIndex (c w h : Word) (s : State) :
    (callAllocFrame c w h s).2.freeIndex = s.freeIndex := rfl

@[simp] theorem callInitializeEngine_fst (s : State) : (callInitializeEngine s).1 = answerInitializeEngine s := rfl

@[simp] theorem callEvaluate_fst (r : Word) (b : Bool) (s : State) : (callEvaluate r b s).1 = answerEvaluate r b s := rfl

@[simp] theorem callGetOutputNode_fst (c : Word) (i : BitVec 8) (s : State) : (callGetOutputNode c i s).1 = answerGetOutputNode c i s := rfl

@[simp] theorem callGetFormatDescriptor_fst (nd : Word) (s : State) : (callGetFormatDescriptor nd s).1 = answerGetFormatDescriptor nd s := rfl

@[simp] theorem callGetFrame_fst (nd n : Word) (s : State) : (callGetFrame nd n s).1 = answerGetFrame nd n s := rfl

@[simp] theorem callGetPlaneData_fst (fr : Word) (p : Plane) (s : State) : (callGetPlaneData fr p s).1 = answerGetPlaneData fr p s := rfl

@[simp] theorem callAllocFrame_fst (c w h : Word) (s : State) : (callAllocFrame c w h s).1 = answerAllocFrame c w h s := rfl

@[simp] theorem placeWord_regs (s : State) (w : CommandWord) : (placeWord s w).regs = s.regs := rfl

@[simp] theorem placeWord_trace (s : State) (w : CommandWord) : (placeWord s w).trace = s.trace := rfl

@[simp] theorem placeWord_responses (s : State) (w : CommandWord) : (placeWord s w).responses = s.responses := rfl

@[simp] theorem placeWord_mem (s : State) (w : CommandWord) : (placeWord s w).mem = s.mem := rfl

@[simp] theorem placeWord_index (s : State) (w : CommandWord) : (placeWord s w).index = s.index := rfl

@[simp] theorem placeWord_env (s : State) (w : CommandWord) : (placeWord s w).env = s.env := rfl

@[simp] theorem placeWord_platform (s : State) (w : CommandWord) : (placeWord s w).platform = s.platform := rfl

@[simp] theorem placeWord_freeIndex (s : State) (w : CommandWord) : (placeWord s w).freeIndex = s.freeIndex := rfl

end Sys2Proof.Machine
end

