-- ==== Sys2Proof/Laws/Moves.lean ====
section
/-! SUPPORT. What the moves of a transcoder can do, said once: when they complete, which bytes they change and to what, and
that they keep the canonical form (spec/20_memory.md R66 to R69, 43_transcoders.md R170, R186). -/

namespace Sys2Proof.Machine

/-- The stores of a move, each with its address, given the memory its reads see. -/
def moveStores (m : Memory) : Move → List (Word × Byte)
  | .copy src dst => [(dst, memByte m src)]
  | .split src top bottom => [(top, memByte m (src + 1)), (bottom, memByte m src)]
  | .triplet r g b dst room => [(dst, memByte m b), (dst + 1, memByte m g), (dst + 2, memByte m r)].take room

/-- Stores done one after the other. -/
def applyStores (m : Memory) : List (Word × Byte) → Memory
  | [] => m
  | (a, v) :: rest => applyStores (Memory.write m a.toNat v) rest

theorem moveStores_addresses (m : Memory) (mv : Move) : (moveStores m mv).map Prod.fst = moveWrites mv := by
  cases mv with
  | copy src dst => rfl
  | split src top bottom => rfl
  | triplet r g b dst room => simp only [moveStores, moveWrites, List.map_take, List.map_cons, List.map_nil]

/-- Writes that are all admitted are done one after the other; one refused write is `E_MEM`. -/
theorem memWrites_eq (pl : Platform) (m : Memory) (l : List (Word × Byte)) :
    memWrites pl m l = if ∀ a ∈ l.map Prod.fst, admits pl a .w = true then some (applyStores m l) else none := by
  induction l generalizing m with
  | nil => simp [memWrites, applyStores]
  | cons c l ih =>
    obtain ⟨a, v⟩ := c
    by_cases h : admits pl a .w = true
    · simp [memWrites, memWrite, applyStores, h, ih]
    · simp [memWrites, memWrite, h]

/-- The most significant byte of a little-endian sample is the byte at the higher address. -/
theorem sampleMsb_append (h l : Byte) : sampleMsb (h ++ l) = h := by
  apply BitVec.eq_of_getLsbD_eq
  intro i hi
  simp only [sampleMsb, BitVec.getLsbD_setWidth, BitVec.getLsbD_ushiftRight, BitVec.getLsbD_append, hi, decide_true,
    Bool.true_and]
  rw [if_neg (by omega), Nat.add_sub_cancel_left]

/-- The least significant byte of a little-endian sample is the byte at the lower address. -/
theorem sampleLsb_append (h l : Byte) : sampleLsb (h ++ l) = l := by
  apply BitVec.eq_of_getLsbD_eq
  intro i hi
  have hmask : (0xFF : Sample).getLsbD i = true := by interval_cases i <;> rfl
  simp only [sampleLsb, BitVec.getLsbD_setWidth, BitVec.getLsbD_and, BitVec.getLsbD_append, hi, decide_true,
    Bool.true_and, if_true, hmask, Bool.and_true]

/-- A move whose accesses are all admitted does its stores; one with a refused access ends in `E_MEM`. -/
theorem runMove_eq (pl : Platform) (m : Memory) (mv : Move) :
    runMove pl m mv =
      if (∀ a ∈ moveReads mv, admits pl a .r = true) ∧ ∀ a ∈ moveWrites mv, admits pl a .w = true then
        some (applyStores m (moveStores m mv))
      else none := by
  cases mv with
  | copy src dst =>
    by_cases h1 : admits pl src .r = true <;> by_cases h2 : admits pl dst .w = true <;>
      simp [runMove, memRead1, memWrite, moveReads, moveWrites, moveStores, applyStores, h1, h2]
  | split src top bottom =>
    simp only [runMove, memRead2, memWrite, moveReads, moveWrites, moveStores, applyStores]
    generalize src + 1 = src1
    by_cases h1 : admits pl src .r = true <;> by_cases h2 : admits pl src1 .r = true <;>
      by_cases h3 : admits pl top .w = true <;> by_cases h4 : admits pl bottom .w = true <;>
      simp [h1, h2, h3, h4, sampleMsb_append, sampleLsb_append]
  | triplet r g b dst room =>
    rw [← moveStores_addresses m]
    by_cases h1 : admits pl r .r = true <;> by_cases h2 : admits pl g .r = true <;>
      by_cases h3 : admits pl b .r = true <;>
      simp [runMove, memRead1, moveReads, memWrites_eq, moveStores, h1, h2, h3]

theorem applyStores_wf (m : Memory) (l : List (Word × Byte)) (hm : m.wf) : (applyStores m l).wf := by
  induction l generalizing m with
  | nil => exact hm
  | cons c l ih => exact ih _ (Memory.write_wf m c.1.toNat c.2 hm c.1.isLt)

theorem memByte_applyStores_other (m : Memory) (l : List (Word × Byte)) (b : Word) (h : b ∉ l.map Prod.fst) :
    memByte (applyStores m l) b = memByte m b := by
  induction l generalizing m with
  | nil => rfl
  | cons c l ih =>
    rw [List.map_cons, List.mem_cons, not_or] at h
    exact (ih _ h.2).trans (memByte_write_other m c.1 b c.2 h.1)

theorem memByte_applyStores_same (m : Memory) (l : List (Word × Byte)) (hm : m.wf) (hn : (l.map Prod.fst).Nodup)
    (a : Word) (v : Byte) (h : (a, v) ∈ l) : memByte (applyStores m l) a = v := by
  induction l generalizing m with
  | nil => exact absurd h (by simp)
  | cons c l ih =>
    rw [List.map_cons, List.nodup_cons] at hn
    rcases List.mem_cons.mp h with rfl | h
    · show memByte (applyStores (Memory.write m a.toNat v) l) a = v
      rw [memByte_applyStores_other _ l a hn.1, memByte_write m a a v hm, if_pos rfl]
    · exact ih _ (Memory.write_wf m c.1.toNat c.2 hm c.1.isLt) hn.2 h

/-- The stores of a move depend only on the bytes it reads. -/
theorem moveStores_congr (m m' : Memory) (mv : Move) (h : ∀ a ∈ moveReads mv, memByte m' a = memByte m a) :
    moveStores m' mv = moveStores m mv := by
  cases mv <;> simp_all [moveReads, moveStores]

theorem sourceBytes_cons (mv : Move) (ms : List Move) : sourceBytes (mv :: ms) = moveReads mv ++ sourceBytes ms := rfl

theorem destBytes_cons (mv : Move) (ms : List Move) : destBytes (mv :: ms) = moveWrites mv ++ destBytes ms := rfl

/-- The moves complete exactly when every access is admitted (60_exceptions.md R233). -/
theorem runMoves_isSome_iff (pl : Platform) (m : Memory) (ms : List Move) :
    (∃ m', runMoves pl m ms = some m') ↔
      (∀ a ∈ sourceBytes ms, admits pl a .r = true) ∧ ∀ a ∈ destBytes ms, admits pl a .w = true := by
  induction ms generalizing m with
  | nil => simp [runMoves, sourceBytes, destBytes]
  | cons mv ms ih =>
    rw [runMoves, runMove_eq, sourceBytes_cons, destBytes_cons]
    by_cases h : (∀ a ∈ moveReads mv, admits pl a .r = true) ∧ ∀ a ∈ moveWrites mv, admits pl a .w = true
    · rw [if_pos h, Option.bind_some, ih]
      simp only [List.mem_append]
      constructor
      · rintro ⟨h1, h2⟩
        exact ⟨fun a ha => ha.elim (h.1 a) (h1 a), fun a ha => ha.elim (h.2 a) (h2 a)⟩
      · rintro ⟨h1, h2⟩
        exact ⟨fun a ha => h1 a (Or.inr ha), fun a ha => h2 a (Or.inr ha)⟩
    · rw [if_neg h]
      constructor
      · rintro ⟨m', h'⟩
        exact absurd h' (by simp)
      · rintro ⟨h1, h2⟩
        exact absurd ⟨fun a ha => h1 a (List.mem_append_left _ ha), fun a ha => h2 a (List.mem_append_left _ ha)⟩ h

/-- What completed moves leave: the canonical form, every byte outside the destination unchanged and, where the destination
bytes are distinct and no source byte is among them, every store of every move on the memory before the command. -/
theorem runMoves_spec (pl : Platform) (m m' : Memory) (ms : List Move) (hm : m.wf) (h : runMoves pl m ms = some m') :
    m'.wf ∧ (∀ b, b ∉ destBytes ms → memByte m' b = memByte m b) ∧
      ((destBytes ms).Nodup → (∀ a ∈ destBytes ms, a ∉ sourceBytes ms) →
        ∀ mv ∈ ms, ∀ c ∈ moveStores m mv, memByte m' c.1 = c.2) := by
  induction ms generalizing m with
  | nil =>
    rw [runMoves, Option.some.injEq] at h
    subst h
    exact ⟨hm, fun _ _ => rfl, by simp⟩
  | cons mv ms ih =>
    rw [runMoves, runMove_eq] at h
    by_cases hok : (∀ a ∈ moveReads mv, admits pl a .r = true) ∧ ∀ a ∈ moveWrites mv, admits pl a .w = true
    · rw [if_pos hok, Option.bind_some] at h
      obtain ⟨h1, h2, h3⟩ := ih _ (applyStores_wf m (moveStores m mv) hm) h
      have hw := moveStores_addresses m mv
      refine ⟨h1, ?_, ?_⟩
      · intro b hb
        rw [destBytes_cons, List.mem_append, not_or] at hb
        rw [h2 b hb.2, memByte_applyStores_other m _ b (by rw [hw]; exact hb.1)]
      · intro hn hd
        rw [destBytes_cons, List.nodup_append] at hn
        rw [destBytes_cons, sourceBytes_cons] at hd
        have hd1 : ∀ a ∈ destBytes ms, a ∉ sourceBytes ms := fun a ha hs =>
          hd a (List.mem_append_right _ ha) (List.mem_append_right _ hs)
        intro mv' hmv' c hc
        rcases List.mem_cons.mp hmv' with rfl | hmv'
        · have hcw : c.1 ∈ moveWrites mv' := by
            rw [← hw]
            exact List.mem_map_of_mem hc
          rw [h2 c.1 (fun hx => hn.2.2 c.1 hcw c.1 hx rfl)]
          exact memByte_applyStores_same m _ hm (by rw [hw]; exact hn.1) c.1 c.2 hc
        · refine h3 hn.2.1 hd1 mv' hmv' c ?_
          rw [moveStores_congr m _ mv' ?_]
          · exact hc
          · intro a ha
            refine memByte_applyStores_other m _ a ?_
            rw [hw]
            intro haw
            refine hd a (List.mem_append_left _ haw) (List.mem_append_right _ ?_)
            exact List.mem_flatMap.mpr ⟨mv', hmv', ha⟩
    · rw [if_neg hok] at h
      exact absurd h (by simp)

/-- Everything `transfer` can do: registers, trace, responses and parameters stay; the memory keeps its canonical form and
every byte outside the destination; `E_MEM` exactly when an access is refused; and, where nothing is refused and the
premises of R68 hold, every store of every move on the memory before the command. -/
theorem transfer_spec (ms : List Move) (s : State) (hm : s.mem.wf) :
    (transfer ms s).2.mem.wf ∧
    (∀ b, b ∉ destBytes ms → memByte (transfer ms s).2.mem b = memByte s.mem b) ∧
    (rowsDisjoint ms = true → srcDstDisjoint ms = true → (transfer ms s).1 = none →
      ∀ mv ∈ ms, ∀ c ∈ moveStores s.mem mv, memByte (transfer ms s).2.mem c.1 = c.2) := by
  unfold transfer
  cases hr : runMoves s.platform s.mem ms with
  | none =>
    exact ⟨scrambleMem_wf _ _ _ hm, fun b hb => memByte_scrambleMem _ _ _ b hb, fun _ _ h => by simp at h⟩
  | some m =>
    obtain ⟨h1, h2, h3⟩ := runMoves_spec _ _ _ _ hm hr
    by_cases hd : (rowsDisjoint ms && srcDstDisjoint ms) = true
    · simp only [hd, if_true]
      refine ⟨h1, h2, fun ha hb _ => h3 (by simpa [rowsDisjoint] using ha) ?_⟩
      intro a hadst hasrc
      rw [srcDstDisjoint, List.all_eq_true] at hb
      have := hb a hadst
      simp [hasrc] at this
    · simp only [hd]
      refine ⟨scrambleMem_wf _ _ _ hm, fun b hb => memByte_scrambleMem _ _ _ b hb, ?_⟩
      intro ha hb
      exact absurd (by simp [ha, hb]) hd

@[simp] theorem transfer_regs (ms : List Move) (s : State) : (transfer ms s).2.regs = s.regs := by
  unfold transfer; split <;> [rfl; (split <;> rfl)]

@[simp] theorem transfer_trace (ms : List Move) (s : State) : (transfer ms s).2.trace = s.trace := by
  unfold transfer; split <;> [rfl; (split <;> rfl)]

@[simp] theorem transfer_responses (ms : List Move) (s : State) : (transfer ms s).2.responses = s.responses := by
  unfold transfer; split <;> [rfl; (split <;> rfl)]

@[simp] theorem transfer_commands (ms : List Move) (s : State) : (transfer ms s).2.commands = s.commands := by
  unfold transfer; split <;> [rfl; (split <;> rfl)]

@[simp] theorem transfer_index (ms : List Move) (s : State) : (transfer ms s).2.index = s.index := by
  unfold transfer; split <;> [rfl; (split <;> rfl)]

@[simp] theorem transfer_env (ms : List Move) (s : State) : (transfer ms s).2.env = s.env := by
  unfold transfer; split <;> [rfl; (split <;> rfl)]

@[simp] theorem transfer_platform (ms : List Move) (s : State) : (transfer ms s).2.platform = s.platform := by
  unfold transfer; split <;> [rfl; (split <;> rfl)]

/-- `E_MEM` exactly when an access is refused. -/
theorem transfer_fst (ms : List Move) (s : State) :
    (transfer ms s).1 = if (∀ a ∈ sourceBytes ms, admits s.platform a .r = true) ∧
      ∀ a ∈ destBytes ms, admits s.platform a .w = true then none else some .mem := by
  have hi := runMoves_isSome_iff s.platform s.mem ms
  unfold transfer
  cases hr : runMoves s.platform s.mem ms with
  | none =>
    rw [if_neg]
    intro h
    obtain ⟨m', hm'⟩ := hi.mpr h
    rw [hr] at hm'
    exact absurd hm' (by simp)
  | some m =>
    rw [if_pos (hi.mp ⟨m, hr⟩)]
    by_cases h : (rowsDisjoint ms && srcDstDisjoint ms) = true <;> simp [h]

end Sys2Proof.Machine
end

