-- ==== Sys2Proof/Laws/Operands.lean ====
section
/-! SUPPORT. The register file: reading after writing, and the indices (spec/10_state.md R22). -/

namespace Sys2Proof.Machine

/-- A register reads back what was written; every other register is unchanged. -/
theorem RegFile.get_set (f : RegFile) (r r' : Reg) (v : Word) :
    (f.set r v).get r' = if r' = r then v else f.get r' := by
  cases r <;> cases r' <;> rfl

/-- A register file is its 40 values. -/
theorem RegFile.ext_get (f g : RegFile) (h : ∀ r, f.get r = g.get r) : f = g := by
  cases f
  cases g
  simp only [RegFile.mk.injEq]
  refine ⟨h .ctrl, h .scriptRef, h .status, h .diag, h .pFmt, h .pBps, h .pPlanes, h .pSs, h .pPacked, h .pWidth,
    h .pHeight, h .pFrames, h .pFpsnumLo, h .pFpsnumHi, h .pFpsdenLo, h .pFpsdenHi, h .cFmt, h .pmode, h .xsel,
    h .cWidth, h .cHeight, h .cFrames, h .cFpsnum, h .cFpsden, h .ctxH, h .nodeH, h .frameH, h .dstH, h .srcBase0,
    h .srcStride0, h .srcBase1, h .srcStride1, h .srcBase2, h .srcStride2, h .dstBase0, h .dstStride0, h .dstBase1,
    h .dstStride1, h .dstBase2, h .dstStride2⟩

/-- Every register has its index (R22: no aliases). -/
theorem regOfIndex_regIndex (r : Reg) : regOfIndex (regIndex r) = some r := by cases r <;> rfl

/-- The register found at an index has that index. -/
theorem regIndex_of_regOfIndex (ra : BitVec 8) (r : Reg) (h : regOfIndex ra = some r) : regIndex r = ra := by
  have := List.find?_some h
  simpa using this

@[simp] theorem setSrcPlane_status (f : RegFile) (p : Plane) (v : PlaneRef) :
    (setSrcPlane f p v).status = f.status := by fin_cases p <;> rfl

@[simp] theorem setDstPlane_status (f : RegFile) (p : Plane) (v : PlaneRef) :
    (setDstPlane f p v).status = f.status := by fin_cases p <;> rfl

/-- `SRC_BASEp` and `SRC_STRIDEp` read back; the other planes are unchanged (R40). -/
theorem srcPlane_setSrcPlane (f : RegFile) (p q : Plane) (v : PlaneRef) :
    srcPlane (setSrcPlane f p v) q = if q = p then v else srcPlane f q := by
  fin_cases p <;> fin_cases q <;> rfl

theorem dstPlane_setDstPlane (f : RegFile) (p q : Plane) (v : PlaneRef) :
    dstPlane (setDstPlane f p v) q = if q = p then v else dstPlane f q := by
  fin_cases p <;> fin_cases q <;> rfl

@[simp] theorem dstPlane_setSrcPlane (f : RegFile) (p q : Plane) (v : PlaneRef) :
    dstPlane (setSrcPlane f p v) q = dstPlane f q := by
  fin_cases p <;> fin_cases q <;> rfl

@[simp] theorem srcPlane_setDstPlane (f : RegFile) (p q : Plane) (v : PlaneRef) :
    srcPlane (setDstPlane f p v) q = srcPlane f q := by
  fin_cases p <;> fin_cases q <;> rfl

/-- The two readings of a stride agree modulo 2^32: an address is the base plus the row number times the stride (20_memory.md
R63). -/
theorem u32_add_mul_signed32 (b : Word) (r : Nat) (st : Word) :
    u32 (b.toNat + r * signed32 st) = b + BitVec.ofNat 32 r * st := by
  apply BitVec.eq_of_toInt_eq
  have hs : signed32 st = st.toInt := by
    unfold signed32
    rw [BitVec.toInt_eq_toNat_cond]
    have := st.isLt
    split <;> split <;> omega
  rw [u32, hs, BitVec.toInt_ofInt, BitVec.toInt_add, BitVec.toInt_mul]
  have hr : (BitVec.ofNat 32 r).toInt = Int.bmod r (2 ^ 32) := by
    rw [BitVec.toInt_eq_toNat_bmod, BitVec.toNat_ofNat, Int.natCast_mod, Int.emod_bmod]
  rw [hr, BitVec.toInt_eq_toNat_bmod (x := b)]
  simp only [Int.bmod_add_bmod, Int.add_bmod_bmod, Int.bmod_mul_bmod]

end Sys2Proof.Machine
end

