-- ==== Sys2Proof/Laws/PerInstr.lean ====
section
/-! SUPPORT. Statements made per command, one lemma per constructor of `Instr`. -/

namespace Sys2Proof.Laws.EncodeLegal

/-- The word of a command is legal as far as its fields go (spec/30_encoding.md R91, R93): `OP` is the opcode's number, `RSV`
is 0, and `RA` and `IMM` are 0 where the format does not use them. -/
def Statement (i : Instr) : Prop :=
  (fieldsOf (encode i)).op = i.opcode.number ∧ (fieldsOf (encode i)).rsv = 0 ∧
    (i.opcode.format.usesRa = false → (fieldsOf (encode i)).ra = 0) ∧
    (i.opcode.format.usesImm = false → (fieldsOf (encode i)).imm = 0)

/-- The statement said of the fields of the command instead of those of its word. -/
theorem of_fields (i : Instr) (hra : i.opcode.format.usesRa = false → i.raField = 0)
    (himm : i.opcode.format.usesImm = false → i.immField = 0) : Statement i := by
  unfold Statement encode
  rw [fieldsOf_joinFields]
  exact ⟨rfl, rfl, hra, himm⟩

theorem nop : Statement .nop :=
  of_fields _ (fun _ => rfl) (fun _ => rfl)

theorem setr (ra : BitVec 8) (imm : Word) : Statement (.setr ra imm) :=
  of_fields _ (fun h => nomatch h) (fun h => nomatch h)

theorem rdr (ra : BitVec 8) : Statement (.rdr ra) :=
  of_fields _ (fun h => nomatch h) (fun _ => rfl)

theorem openSession : Statement .openSession :=
  of_fields _ (fun _ => rfl) (fun _ => rfl)

theorem getgeom : Statement .getgeom :=
  of_fields _ (fun _ => rfl) (fun _ => rfl)

theorem getframe (n : Word) : Statement (.getframe n) :=
  of_fields _ (fun _ => rfl) (fun h => nomatch h)

theorem close : Statement .close :=
  of_fields _ (fun _ => rfl) (fun _ => rfl)

theorem map : Statement .map :=
  of_fields _ (fun _ => rfl) (fun _ => rfl)

theorem resolve : Statement .resolve :=
  of_fields _ (fun _ => rfl) (fun _ => rfl)

theorem select : Statement .select :=
  of_fields _ (fun _ => rfl) (fun _ => rfl)

theorem blit : Statement .blit :=
  of_fields _ (fun _ => rfl) (fun _ => rfl)

theorem stack : Statement .stack :=
  of_fields _ (fun _ => rfl) (fun _ => rfl)

theorem bgrpack : Statement .bgrpack :=
  of_fields _ (fun _ => rfl) (fun _ => rfl)

theorem convert : Statement .convert :=
  of_fields _ (fun _ => rfl) (fun _ => rfl)

end Sys2Proof.Laws.EncodeLegal
end

