-- ==== Sys2Proof/Laws/Session.lean ====
section
/-! SUPPORT. What the session procedures can do, each said once: which calls they make, what they leave in the registers, and
that everything else stays (spec/44_session.md R201 to R215). -/

namespace Sys2Proof.Machine

/-- The state after a procedure that made `calls`, left the registers `r` and the answers `e`; everything else stays. -/
def afterEvents (s : State) (r : RegFile) (calls : List EnvEvent) (e : Environment) : State :=
  { s with regs := r, trace := s.trace ++ calls, env := e }

theorem afterEvents_afterEvents (s : State) (r r' : RegFile) (c c' : List EnvEvent) (e e' : Environment) :
    afterEvents (afterEvents s r c e) r' c' e' = afterEvents s r' (c ++ c') e' := by
  simp [afterEvents, List.append_assoc]

@[simp] theorem afterEvents_regs (s : State) (r : RegFile) (c : List EnvEvent) (e : Environment) :
    (afterEvents s r c e).regs = r := rfl

@[simp] theorem afterEvents_trace (s : State) (r : RegFile) (c : List EnvEvent) (e : Environment) :
    (afterEvents s r c e).trace = s.trace ++ c := rfl

@[simp] theorem afterEvents_env (s : State) (r : RegFile) (c : List EnvEvent) (e : Environment) :
    (afterEvents s r c e).env = e := rfl

@[simp] theorem afterEvents_responses (s : State) (r : RegFile) (c : List EnvEvent) (e : Environment) :
    (afterEvents s r c e).responses = s.responses := rfl

@[simp] theorem afterEvents_mem (s : State) (r : RegFile) (c : List EnvEvent) (e : Environment) :
    (afterEvents s r c e).mem = s.mem := rfl

@[simp] theorem afterEvents_platform (s : State) (r : RegFile) (c : List EnvEvent) (e : Environment) :
    (afterEvents s r c e).platform = s.platform := rfl

@[simp] theorem afterEvents_commands (s : State) (r : RegFile) (c : List EnvEvent) (e : Environment) :
    (afterEvents s r c e).commands = s.commands := rfl

@[simp] theorem afterEvents_index (s : State) (r : RegFile) (c : List EnvEvent) (e : Environment) :
    (afterEvents s r c e).index = s.index := rfl

@[simp] theorem afterEvents_freeIndex (s : State) (r : RegFile) (c : List EnvEvent) (e : Environment) :
    (afterEvents s r c e).freeIndex = s.freeIndex := rfl

theorem onRegs_afterEvents (g : RegFile → RegFile) (s : State) (r : RegFile) (c : List EnvEvent) (e : Environment) :
    onRegs g (afterEvents s r c e) = afterEvents s (g r) c e := rfl

theorem record_eq (ev : EnvEvent) (s : State) : record ev s = afterEvents s s.regs [ev] s.env := rfl

/-- Nothing called and no register written. -/
theorem afterEvents_nil (s : State) : afterEvents s s.regs [] s.env = s := by simp [afterEvents]

/-- A prepared answer is the one taken. -/
theorem answerInitializeEngine_of_head? (s : State) (x : Bool) (hx : s.env.initializeEngine.head? = some x) :
    x = answerInitializeEngine s := by
  unfold answerInitializeEngine
  cases hq : s.env.initializeEngine with
  | nil => rw [hq] at hx; cases hx
  | cons y ys => rw [hq] at hx; exact (Option.some.inj hx).symm

/-- A prepared answer is the one taken. -/
theorem answerEvaluate_of_head? (s : State) (r : Word) (b : Bool) (x : EvalResult) (hx : s.env.evaluate.head? = some x) :
    x = answerEvaluate r b s := by
  unfold answerEvaluate
  cases hq : s.env.evaluate with
  | nil => rw [hq] at hx; cases hx
  | cons y ys => rw [hq] at hx; exact (Option.some.inj hx).symm

/-- A prepared answer is the one taken. -/
theorem answerGetOutputNode_of_head? (s : State) (c : Word) (i : BitVec 8) (x : Option Word) (hx : s.env.getOutputNode.head? = some x) :
    x = answerGetOutputNode c i s := by
  unfold answerGetOutputNode
  cases hq : s.env.getOutputNode with
  | nil => rw [hq] at hx; cases hx
  | cons y ys => rw [hq] at hx; exact (Option.some.inj hx).symm

/-- A prepared answer is the one taken. -/
theorem answerGetFormatDescriptor_of_head? (s : State) (n : Word) (x : Descriptor) (hx : s.env.getFormatDescriptor.head? = some x) :
    x = answerGetFormatDescriptor n s := by
  unfold answerGetFormatDescriptor
  cases hq : s.env.getFormatDescriptor with
  | nil => rw [hq] at hx; cases hx
  | cons y ys => rw [hq] at hx; exact (Option.some.inj hx).symm

/-- A prepared answer is the one taken. -/
theorem answerGetFrame_of_head? (s : State) (nd n : Word) (x : Option Word) (hx : s.env.getFrame.head? = some x) :
    x = answerGetFrame nd n s := by
  unfold answerGetFrame
  cases hq : s.env.getFrame with
  | nil => rw [hq] at hx; cases hx
  | cons y ys => rw [hq] at hx; exact (Option.some.inj hx).symm

/-- A prepared answer is the one taken. -/
theorem answerGetPlaneData_of_head? (s : State) (fr : Word) (p : Plane) (x : PlaneRef) (hx : s.env.getPlaneData.head? = some x) :
    x = answerGetPlaneData fr p s := by
  unfold answerGetPlaneData
  cases hq : s.env.getPlaneData with
  | nil => rw [hq] at hx; cases hx
  | cons y ys => rw [hq] at hx; exact (Option.some.inj hx).symm

/-- A prepared answer is the one taken. -/
theorem answerAllocFrame_of_head? (s : State) (c w h : Word) (x : Option Allocation) (hx : s.env.allocFrame.head? = some x) :
    x = answerAllocFrame c w h s := by
  unfold answerAllocFrame
  cases hq : s.env.allocFrame with
  | nil => rw [hq] at hx; cases hx
  | cons y ys => rw [hq] at hx; exact (Option.some.inj hx).symm

/-! ### OPEN -/

/-- Everything `Acquire` (R202) can do, by the answer that ends it; an answer prepared in the environment is the one taken. -/
theorem acquire_cases (s : State) :
    (∃ e, acquire s = .error (.engineInit, afterEvents s s.regs [.initializeEngine false] e) ∧
      ∀ b, s.env.initializeEngine.head? = some b → b = false) ∨
    (∃ d e, acquire s = .error (.scriptEval, afterEvents s { setHaveEngine true s.regs with diag := d }
        [.initializeEngine true, .evaluate s.regs.scriptRef (ctrlInline s.regs) (.err d)] e) ∧
      (∀ b, s.env.initializeEngine.head? = some b → b = true) ∧
      ∀ r, s.env.evaluate.head? = some r → r = .err d) ∨
    (∃ c e, acquire s = .error (.noOutputNode,
        afterEvents s (setHaveCtx true { setHaveEngine true s.regs with ctxH := c })
          [.initializeEngine true, .evaluate s.regs.scriptRef (ctrlInline s.regs) (.ok c),
            .getOutputNode c (ctrlOutidx s.regs) none] e) ∧
      (∀ b, s.env.initializeEngine.head? = some b → b = true) ∧
      (∀ r, s.env.evaluate.head? = some r → r = .ok c) ∧
      ∀ r, s.env.getOutputNode.head? = some r → r = none) ∨
    ∃ c nd e, acquire s = .ok
        (afterEvents s (setHaveNode true { setHaveCtx true { setHaveEngine true s.regs with ctxH := c } with nodeH := nd })
          [.initializeEngine true, .evaluate s.regs.scriptRef (ctrlInline s.regs) (.ok c),
            .getOutputNode c (ctrlOutidx s.regs) (some nd)] e) ∧
      e.getFormatDescriptor = s.env.getFormatDescriptor ∧
      (∀ b, s.env.initializeEngine.head? = some b → b = true) ∧
      (∀ r, s.env.evaluate.head? = some r → r = .ok c) ∧
      ∀ r, s.env.getOutputNode.head? = some r → r = some nd := by
  have h1 : ∀ b, s.env.initializeEngine.head? = some b → b = answerInitializeEngine s :=
    fun b hb => answerInitializeEngine_of_head? s b hb
  unfold acquire
  rw [show callInitializeEngine s = (answerInitializeEngine s, afterEvents s s.regs
    [.initializeEngine (answerInitializeEngine s)] { s.env with initializeEngine := s.env.initializeEngine.tail }) from rfl]
  generalize answerInitializeEngine s = b at h1 ⊢
  cases b with
  | false => exact Or.inl ⟨_, rfl, h1⟩
  | true =>
    right
    simp only [onRegs_afterEvents]
    set s1 := afterEvents s (setHaveEngine true s.regs) [.initializeEngine true]
      { s.env with initializeEngine := s.env.initializeEngine.tail } with hs1
    have h2 : ∀ r, s.env.evaluate.head? = some r → r = answerEvaluate s.regs.scriptRef (ctrlInline s.regs) s1 :=
      fun r hr => answerEvaluate_of_head? s1 _ _ r hr
    rw [show callEvaluate s1.regs.scriptRef (ctrlInline s1.regs) s1 =
      (answerEvaluate s.regs.scriptRef (ctrlInline s.regs) s1, afterEvents s (setHaveEngine true s.regs)
        ([.initializeEngine true] ++ [.evaluate s.regs.scriptRef (ctrlInline s.regs)
          (answerEvaluate s.regs.scriptRef (ctrlInline s.regs) s1)])
        { s.env with initializeEngine := s.env.initializeEngine.tail, evaluate := s.env.evaluate.tail }) by
      rw [← afterEvents_afterEvents s (setHaveEngine true s.regs) _ _ _
        { s.env with initializeEngine := s.env.initializeEngine.tail }, ← hs1]; rfl]
    generalize answerEvaluate s.regs.scriptRef (ctrlInline s.regs) s1 = r at h2 ⊢
    cases r with
    | err d => exact Or.inl ⟨d, _, rfl, h1, h2⟩
    | ok c =>
      right
      simp only [onRegs_afterEvents, List.singleton_append]
      set s2 := afterEvents s (setHaveCtx true { setHaveEngine true s.regs with ctxH := c })
        [.initializeEngine true, .evaluate s.regs.scriptRef (ctrlInline s.regs) (.ok c)]
        { s.env with initializeEngine := s.env.initializeEngine.tail, evaluate := s.env.evaluate.tail } with hs2
      have h3 : ∀ r, s.env.getOutputNode.head? = some r → r = answerGetOutputNode c (ctrlOutidx s.regs) s2 :=
        fun r hr => answerGetOutputNode_of_head? s2 _ _ r hr
      rw [show callGetOutputNode s2.regs.ctxH (ctrlOutidx s2.regs) s2 =
        (answerGetOutputNode c (ctrlOutidx s.regs) s2,
          afterEvents s (setHaveCtx true { setHaveEngine true s.regs with ctxH := c })
            ([.initializeEngine true, .evaluate s.regs.scriptRef (ctrlInline s.regs) (.ok c)] ++
              [.getOutputNode c (ctrlOutidx s.regs) (answerGetOutputNode c (ctrlOutidx s.regs) s2)])
            { s.env with initializeEngine := s.env.initializeEngine.tail, evaluate := s.env.evaluate.tail,
                         getOutputNode := s.env.getOutputNode.tail }) by
        rw [← afterEvents_afterEvents s (setHaveCtx true { setHaveEngine true s.regs with ctxH := c }) _ _ _
          { s.env with initializeEngine := s.env.initializeEngine.tail, evaluate := s.env.evaluate.tail }, ← hs2]; rfl]
      generalize answerGetOutputNode c (ctrlOutidx s.regs) s2 = n at h3 ⊢
      cases n with
      | none => exact Or.inl ⟨c, _, rfl, h1, h2, h3⟩
      | some nd => exact Or.inr ⟨c, nd, _, rfl, rfl, h1, h2, h3⟩

/-- `LoadDescriptor` (R204): one call, the descriptor stored; a prepared answer is the one taken. -/
theorem loadDescriptor_cases (s : State) :
    ∃ d e, loadDescriptor s = afterEvents s (storeDescriptor d s.regs) [.getFormatDescriptor s.regs.nodeH d] e ∧
      ∀ x, s.env.getFormatDescriptor.head? = some x → x = d :=
  ⟨answerGetFormatDescriptor s.regs.nodeH s, _, rfl, fun x hx => answerGetFormatDescriptor_of_head? s _ x hx⟩

/-- The releases that the HAVE bits call for, in the order node, context, engine (R207, R214). -/
def releaseCalls (f : RegFile) : List EnvEvent :=
  (if haveNode f then [.releaseNode f.nodeH] else []) ++ (if haveCtx f then [.releaseContext f.ctxH] else []) ++
    (if haveEngine f then [.engineRelease] else [])

/-- The registers after those releases in an OPEN that fails (R207). -/
def releasedRegs (f : RegFile) : RegFile :=
  let f := if haveNode f then { setHaveNode false f with nodeH := 0 } else f
  let f := if haveCtx f then { setHaveCtx false f with ctxH := 0 } else f
  if haveEngine f then setHaveEngine false f else f

theorem unwindNode_eq (s : State) : unwindNode s =
    afterEvents s (if haveNode s.regs then { setHaveNode false s.regs with nodeH := 0 } else s.regs)
      (if haveNode s.regs then [.releaseNode s.regs.nodeH] else []) s.env := by
  unfold unwindNode
  split
  · rfl
  · exact (afterEvents_nil s).symm

theorem unwindCtx_eq (s : State) : unwindCtx s =
    afterEvents s (if haveCtx s.regs then { setHaveCtx false s.regs with ctxH := 0 } else s.regs)
      (if haveCtx s.regs then [.releaseContext s.regs.ctxH] else []) s.env := by
  unfold unwindCtx
  split
  · rfl
  · exact (afterEvents_nil s).symm

theorem unwindEngine_eq (s : State) : unwindEngine s =
    afterEvents s (if haveEngine s.regs then setHaveEngine false s.regs else s.regs)
      (if haveEngine s.regs then [.engineRelease] else []) s.env := by
  unfold unwindEngine
  split
  · rfl
  · exact (afterEvents_nil s).symm

/-- HAVE_CTX, HAVE_ENGINE and CTX_H are not touched by the release of the node. -/
theorem releaseNode_keeps (f : RegFile) (b : Bool) :
    haveCtx (if b then { setHaveNode false f with nodeH := 0 } else f) = haveCtx f ∧
    haveEngine (if b then { setHaveNode false f with nodeH := 0 } else f) = haveEngine f ∧
    (if b then { setHaveNode false f with nodeH := 0 } else f).ctxH = f.ctxH := by
  cases b
  · exact ⟨rfl, rfl, rfl⟩
  · exact ⟨haveCtx_setHaveNode f false, haveEngine_setHaveNode f false, rfl⟩

/-- HAVE_ENGINE is not touched by the release of the context. -/
theorem releaseCtx_keeps (f : RegFile) (b : Bool) :
    haveEngine (if b then { setHaveCtx false f with ctxH := 0 } else f) = haveEngine f := by
  cases b
  · rfl
  · exact haveEngine_setHaveCtx f false

/-- `Fail(e)` (R207): the releases, the registers, the response. -/
theorem failOpen_eq (e : ErrCode) (s : State) :
    failOpen e s = raise e (afterEvents s (setPhase .failed (setErr e.code (clearResolved (releasedRegs s.regs))))
      (releaseCalls s.regs) s.env) := by
  obtain ⟨h1, h2, h3⟩ := releaseNode_keeps s.regs (haveNode s.regs)
  unfold failOpen releaseCalls releasedRegs
  rw [unwindNode_eq s, unwindCtx_eq, afterEvents_afterEvents, unwindEngine_eq, afterEvents_afterEvents]
  simp only [onRegs_afterEvents, afterEvents_regs, afterEvents_env, releaseCtx_keeps, h1, h2, h3]

/-! ### CLOSE -/

/-- The releases of CLOSE (R214). -/
theorem closeReleases_eq (s : State) : closeReleases s = afterEvents s s.regs (releaseCalls s.regs) s.env := by
  unfold closeReleases releaseCalls
  cases h1 : haveNode s.regs <;> cases h2 : haveCtx s.regs <;> cases h3 : haveEngine s.regs <;>
    simp [h2, h3, callReleaseNode, callReleaseContext, callEngineRelease, record, afterEvents]

/-! ### GETFRAME -/

/-- `getPlaneData` for a list of different planes (R210): one call each, the planes stored; prepared answers are taken in
order. -/
theorem fetchPlanes_cases (ps : List Plane) (hn : ps.Nodup) (s : State) :
    ∃ (a : Plane → PlaneRef) (e : Environment),
      ps.foldl fetchPlane s = afterEvents s (ps.foldl (fun g p => setSrcPlane g p (a p)) s.regs)
        (ps.map fun p => .getPlaneData s.regs.frameH p (a p)) e ∧
      ∀ (b : Plane → PlaneRef) (rest : List PlaneRef), s.env.getPlaneData = ps.map b ++ rest → ∀ p ∈ ps, a p = b p := by
  induction ps generalizing s with
  | nil => exact ⟨fun _ => default, s.env, (afterEvents_nil s).symm, by simp⟩
  | cons p ps ih =>
    rw [List.nodup_cons] at hn
    obtain ⟨a, e, h, ha⟩ := ih hn.2 (fetchPlane s p)
    have hx := answerGetPlaneData_of_head? s s.regs.frameH p
    generalize hw : answerGetPlaneData s.regs.frameH p s = v at hx
    have hf : fetchPlane s p = afterEvents s (setSrcPlane s.regs p v) [.getPlaneData s.regs.frameH p v]
        { s.env with getPlaneData := s.env.getPlaneData.tail } := by rw [← hw]; rfl
    have hfr : (setSrcPlane s.regs p v).frameH = s.regs.frameH := by fin_cases p <;> rfl
    refine ⟨fun q => if q = p then v else a q, e, ?_, ?_⟩
    · have h1 : ps.foldl (fun g q => setSrcPlane g q (if q = p then v else a q)) (setSrcPlane s.regs p v) =
          ps.foldl (fun g q => setSrcPlane g q (a q)) (setSrcPlane s.regs p v) := by
        refine List.foldl_ext _ _ _ fun g q hq => ?_
        rw [if_neg (fun hqp : q = p => hn.1 (hqp ▸ hq))]
      have h2 : (ps.map fun q => EnvEvent.getPlaneData s.regs.frameH q (if q = p then v else a q)) =
          ps.map fun q => EnvEvent.getPlaneData s.regs.frameH q (a q) := by
        refine List.map_congr_left fun q hq => ?_
        rw [if_neg (fun hqp : q = p => hn.1 (hqp ▸ hq))]
      rw [List.foldl_cons, h, hf, afterEvents_afterEvents, List.foldl_cons, List.map_cons, h2]
      simp only [if_true, h1, afterEvents_regs, hfr, List.singleton_append]
    · intro b rest hq q hmem
      rw [List.map_cons, List.cons_append] at hq
      by_cases hqp : q = p
      · subst hqp
        simp only [if_true]
        exact (hx (b q) (by rw [hq]; rfl)).symm
      · simp only [hqp, if_false]
        refine ha b rest ?_ q ((List.mem_cons.mp hmem).resolve_left hqp)
        rw [hf, afterEvents_env]
        simp [hq]

/-- STATUS and FRAME_H replaced. -/
def withStatusFrame (f : RegFile) (v h : Word) : RegFile := { f with status := v, frameH := h }

theorem setDstPlane_withStatusFrame (f : RegFile) (p : Plane) (x : PlaneRef) (v h : Word) :
    setDstPlane (withStatusFrame f v h) p x = withStatusFrame (setDstPlane f p x) v h := by fin_cases p <;> rfl

theorem setSrcPlane_withStatusFrame (f : RegFile) (p : Plane) (x : PlaneRef) (v h : Word) :
    setSrcPlane (withStatusFrame f v h) p x = withStatusFrame (setSrcPlane f p x) v h := by fin_cases p <;> rfl

theorem foldl_withStatusFrame (step : RegFile → Plane → RegFile)
    (hstep : ∀ f p v h, step (withStatusFrame f v h) p = withStatusFrame (step f p) v h) (ps : List Plane) (f : RegFile)
    (v h : Word) : ps.foldl step (withStatusFrame f v h) = withStatusFrame (ps.foldl step f) v h := by
  induction ps generalizing f with
  | nil => rfl
  | cons p ps ih => rw [List.foldl_cons, List.foldl_cons, hstep, ih]

theorem storeAllocation_withStatusFrame (al : Allocation) (f : RegFile) (v h : Word) :
    storeAllocation al (withStatusFrame f v h) = withStatusFrame (storeAllocation al f) v h :=
  foldl_withStatusFrame (fun f p => setDstPlane f p (allocationPlane al p))
    (fun _ _ _ _ => setDstPlane_withStatusFrame _ _ _ _ _) _ { f with dstH := al.dst } v h

/-- The planes, the moves and the checks of a transcoder do not read STATUS or FRAME_H. -/
theorem transcoder_withStatusFrame (f : RegFile) (v h : Word) :
    planesOf (withStatusFrame f v h) = planesOf f ∧ xselSel (withStatusFrame f v h) = xselSel f ∧
    blitMoves (withStatusFrame f v h) = blitMoves f ∧ stackMoves (withStatusFrame f v h) = stackMoves f ∧
    bgrMoves (withStatusFrame f v h) = bgrMoves f ∧ blitParamsOk (withStatusFrame f v h) = blitParamsOk f ∧
    stackParamsOk (withStatusFrame f v h) = stackParamsOk f ∧ bgrParamsOk (withStatusFrame f v h) = bgrParamsOk f :=
  ⟨rfl, rfl, rfl, rfl, rfl, rfl, rfl, rfl⟩

/-- `transfer` neither reads nor writes the registers. -/
theorem transfer_onRegs (ms : List Move) (g : RegFile → RegFile) (s : State) :
    transfer ms (onRegs g s) = ((transfer ms s).1, onRegs g (transfer ms s).2) := by
  unfold transfer
  rw [show (onRegs g s).platform = s.platform from rfl, show (onRegs g s).mem = s.mem from rfl]
  cases runMoves s.platform s.mem ms with
  | none => rfl
  | some m => cases (rowsDisjoint ms && srcDstDisjoint ms) <;> rfl

/-- `ConvertBody` (R185) reads neither STATUS nor FRAME_H. -/
theorem convertBody_withStatusFrame (s : State) (v h : Word) :
    convertBody (onRegs (fun f => withStatusFrame f v h) s) =
      ((convertBody s).1, onRegs (fun f => withStatusFrame f v h) (convertBody s).2) := by
  obtain ⟨-, h2, h3, h4, h5, h6, h7, h8⟩ := transcoder_withStatusFrame s.regs v h
  unfold convertBody
  rw [onRegs_regs, h2, h3, h4, h5, h6, h7, h8]
  rcases transcoderOf (xselSel s.regs) with _ | (_ | _ | _)
  · rfl
  · cases blitParamsOk s.regs <;> simp [transfer_onRegs]
  · cases stackParamsOk s.regs <;> simp [transfer_onRegs]
  · cases bgrParamsOk s.regs <;> simp [transfer_onRegs]

@[simp] theorem convertBody_regs (s : State) : (convertBody s).2.regs = s.regs := by
  unfold convertBody
  repeat' split
  all_goals first | rfl | exact transfer_regs _ _

@[simp] theorem convertBody_trace (s : State) : (convertBody s).2.trace = s.trace := by
  unfold convertBody
  repeat' split
  all_goals first | rfl | exact transfer_trace _ _

/-- How GETFRAME answers after the conversion. -/
def frameAnswer (r : Option ErrCode) (dst : Word) (s : State) : State :=
  match r with
  | some e => raise e s
  | none => respondOk [dst] s

/-- Everything GETFRAME (R210) can do in a session that holds no frame, by the answer that ends it. -/
theorem getframeBody_cases (n : Word) (s : State) (hp : phaseBits s.regs = Phase.ready.code)
    (hf : haveFrame s.regs = false) (hh : s.regs.frameH = 0) :
    (∃ e, getframeBody n s = raise .fetch (afterEvents s s.regs [.getFrame s.regs.nodeH n none] e) ∧
      ∀ r, s.env.getFrame.head? = some r → r = none) ∨
    (∃ fr e, getframeBody n s = raise .alloc (afterEvents s s.regs [.getFrame s.regs.nodeH n (some fr),
        .allocFrame s.regs.cFmt s.regs.cWidth s.regs.cHeight none, .releaseFrame fr] e) ∧
      (∀ r, s.env.getFrame.head? = some r → r = some fr) ∧ ∀ r, s.env.allocFrame.head? = some r → r = none) ∨
    ∃ (fr : Word) (al : Allocation) (a : Plane → PlaneRef) (e : Environment),
      (let s3 := afterEvents s ((planesOf s.regs).foldl (fun g p => setSrcPlane g p (a p)) (storeAllocation al s.regs))
          ([.getFrame s.regs.nodeH n (some fr), .allocFrame s.regs.cFmt s.regs.cWidth s.regs.cHeight (some al)] ++
            (planesOf s.regs).map fun p => .getPlaneData fr p (a p)) e
       getframeBody n s = frameAnswer (convertBody s3).1 al.dst (record (.releaseFrame fr) (convertBody s3).2)) ∧
      (∀ r, s.env.getFrame.head? = some r → r = some fr) ∧ (∀ r, s.env.allocFrame.head? = some r → r = some al) ∧
      ∀ (b : Plane → PlaneRef) (rest : List PlaneRef), s.env.getPlaneData = (planesOf s.regs).map b ++ rest →
        ∀ p ∈ planesOf s.regs, a p = b p := by
  have hst : ∀ b : Bool, setPhase .ready (setHaveFrame false (setHaveFrame b (setPhase .fetching s.regs))) = s.regs := by
    intro b
    rw [setHaveFrame_setHaveFrame, setHaveFrame_setPhase, setPhase_setPhase, setHaveFrame_self s.regs false hf,
      setPhase_self s.regs .ready hp]
  unfold getframeBody
  simp only
  set s1 := onRegs (setPhase .fetching) s with hs1
  have h1 := fun r hr => answerGetFrame_of_head? s1 s.regs.nodeH n r hr
  rw [show callGetFrame s1.regs.nodeH n s1 = (answerGetFrame s.regs.nodeH n s1, afterEvents s (setPhase .fetching s.regs)
    [.getFrame s.regs.nodeH n (answerGetFrame s.regs.nodeH n s1)]
    { s.env with getFrame := s.env.getFrame.tail }) from rfl]
  generalize answerGetFrame s.regs.nodeH n s1 = x at h1 ⊢
  cases x with
  | none =>
    refine Or.inl ⟨{ s.env with getFrame := s.env.getFrame.tail }, ?_, h1⟩
    show raise .fetch (onRegs (setPhase .ready) (afterEvents s (setPhase .fetching s.regs)
      [.getFrame s.regs.nodeH n none] { s.env with getFrame := s.env.getFrame.tail })) = _
    rw [onRegs_afterEvents, setPhase_setPhase, setPhase_self s.regs .ready hp]
  | some fr =>
    right
    simp only [onRegs_afterEvents]
    set f2 := setHaveFrame true { setPhase .fetching s.regs with frameH := fr } with hf2
    set s2 := afterEvents s f2 [.getFrame s.regs.nodeH n (some fr)] { s.env with getFrame := s.env.getFrame.tail } with hs2
    have h2 := fun r hr => answerAllocFrame_of_head? s2 s.regs.cFmt s.regs.cWidth s.regs.cHeight r hr
    rw [show callAllocFrame s2.regs.cFmt s2.regs.cWidth s2.regs.cHeight s2 =
      (answerAllocFrame s.regs.cFmt s.regs.cWidth s.regs.cHeight s2, afterEvents s f2
        ([.getFrame s.regs.nodeH n (some fr)] ++ [.allocFrame s.regs.cFmt s.regs.cWidth s.regs.cHeight
          (answerAllocFrame s.regs.cFmt s.regs.cWidth s.regs.cHeight s2)])
        { s.env with getFrame := s.env.getFrame.tail, allocFrame := s.env.allocFrame.tail }) by
      rw [← afterEvents_afterEvents s f2 _ _ _ { s.env with getFrame := s.env.getFrame.tail }, ← hs2]; rfl]
    generalize answerAllocFrame s.regs.cFmt s.regs.cWidth s.regs.cHeight s2 = y at h2 ⊢
    have hrel : setPhase .ready { setHaveFrame false f2 with frameH := 0 } = s.regs := by
      have h := hst true
      rw [← hh] at *
      calc _ = { setPhase .ready (setHaveFrame false (setHaveFrame true (setPhase .fetching s.regs)))
                  with frameH := s.regs.frameH } := rfl
        _ = s.regs := by rw [h]
    cases y with
    | none =>
      refine Or.inl ⟨fr, { s.env with getFrame := s.env.getFrame.tail, allocFrame := s.env.allocFrame.tail }, ?_, h1, h2⟩
      unfold releaseFrame callReleaseFrame
      simp only [record_eq, onRegs_afterEvents, afterEvents_afterEvents, afterEvents_regs, hrel]
      rfl
    | some al =>
      right
      simp only [onRegs_afterEvents]
      set s2' := afterEvents s (storeAllocation al f2) ([.getFrame s.regs.nodeH n (some fr)] ++
        [.allocFrame s.regs.cFmt s.regs.cWidth s.regs.cHeight (some al)])
        { s.env with getFrame := s.env.getFrame.tail, allocFrame := s.env.allocFrame.tail } with hs2'
      have hsa : storeAllocation al f2 = withStatusFrame (storeAllocation al s.regs) f2.status fr :=
        storeAllocation_withStatusFrame al s.regs f2.status fr
      have hpl : planesOf s2'.regs = planesOf s.regs := by
        rw [hs2', afterEvents_regs, hsa, (transcoder_withStatusFrame _ _ _).1]
        unfold planesOf storeAllocation
        have : ∀ (ps : List Plane) (f : RegFile),
            (ps.foldl (fun f p => setDstPlane f p (allocationPlane al p)) f).pPlanes = f.pPlanes := by
          intro ps
          induction ps with
          | nil => intro f; rfl
          | cons p ps ih => intro f; rw [List.foldl_cons, ih]; fin_cases p <;> rfl
        rw [this]
      have hnd : (planesOf s.regs).Nodup := by
        unfold planesOf planesBelow
        exact List.Nodup.filter _ (by decide : allPlanes.Nodup)
      obtain ⟨a, e, h3, h3a⟩ := fetchPlanes_cases (planesOf s.regs) hnd s2'
      have hfr : s2'.regs.frameH = fr := by rw [hs2', afterEvents_regs, hsa]; rfl
      refine ⟨fr, al, a, e, ?_, h1, h2, h3a⟩
      unfold fetchPlanes
      rw [hpl, h3, hfr, hs2', afterEvents_regs, afterEvents_afterEvents, onRegs_afterEvents, hsa,
        foldl_withStatusFrame _ (fun _ _ _ _ => setSrcPlane_withStatusFrame _ _ _ _ _)]
      set f3 := (planesOf s.regs).foldl (fun g p => setSrcPlane g p (a p)) (storeAllocation al s.regs) with hf3
      have hkeep : f3.status = s.regs.status ∧ f3.frameH = s.regs.frameH ∧ f3.dstH = al.dst := by
        have h5 : ∀ (ps : List Plane) (f : RegFile), (ps.foldl (fun g p => setSrcPlane g p (a p)) f).status = f.status ∧
            (ps.foldl (fun g p => setSrcPlane g p (a p)) f).frameH = f.frameH ∧
            (ps.foldl (fun g p => setSrcPlane g p (a p)) f).dstH = f.dstH := by
          intro ps
          induction ps with
          | nil => intro f; exact ⟨rfl, rfl, rfl⟩
          | cons p ps ih =>
            intro f
            rw [List.foldl_cons]
            obtain ⟨i1, i2, i3⟩ := ih (setSrcPlane f p (a p))
            rw [i1, i2, i3]
            fin_cases p <;> exact ⟨rfl, rfl, rfl⟩
        have h6 : ∀ (ps : List Plane) (f : RegFile),
            (ps.foldl (fun g p => setDstPlane g p (allocationPlane al p)) f).status = f.status ∧
            (ps.foldl (fun g p => setDstPlane g p (allocationPlane al p)) f).frameH = f.frameH ∧
            (ps.foldl (fun g p => setDstPlane g p (allocationPlane al p)) f).dstH = f.dstH := by
          intro ps
          induction ps with
          | nil => intro f; exact ⟨rfl, rfl, rfl⟩
          | cons p ps ih =>
            intro f
            rw [List.foldl_cons]
            obtain ⟨i1, i2, i3⟩ := ih (setDstPlane f p (allocationPlane al p))
            rw [i1, i2, i3]
            fin_cases p <;> exact ⟨rfl, rfl, rfl⟩
        obtain ⟨i1, i2, i3⟩ := h5 (planesOf s.regs) (storeAllocation al s.regs)
        obtain ⟨j1, j2, j3⟩ := h6 (planesBelow (nDst s.regs.cFmt)) { s.regs with dstH := al.dst }
        exact ⟨i1.trans j1, i2.trans j2, i3.trans j3⟩
      set s3 := afterEvents s f3 ([.getFrame s.regs.nodeH n (some fr),
        .allocFrame s.regs.cFmt s.regs.cWidth s.regs.cHeight (some al)] ++
          (planesOf s.regs).map fun p => .getPlaneData fr p (a p)) e with hs3
      have hs4 : afterEvents s (setPhase .converting (withStatusFrame f3 f2.status fr))
          ([.getFrame s.regs.nodeH n (some fr)] ++ [.allocFrame s.regs.cFmt s.regs.cWidth s.regs.cHeight (some al)] ++
            (planesOf s.regs).map fun p => .getPlaneData fr p (a p)) e =
          onRegs (fun f => withStatusFrame f (setBits f2.status 0 Phase.converting.code) fr) s3 := rfl
      rw [hs4, convertBody_withStatusFrame]
      have hc := convertBody_regs s3
      rw [hs3, afterEvents_regs, ← hs3] at hc
      generalize convertBody s3 = r at hc ⊢
      obtain ⟨o, u⟩ := r
      simp only at hc
      have hst3 : setBits (setBits (setBits f2.status 0 Phase.converting.code) 6 (BitVec.ofBool false)) 0
          Phase.ready.code = s.regs.status := by
        have h := congrArg RegFile.status (hst true)
        simp only [setPhase, setHaveFrame] at h
        rw [hf2]
        simp only [setPhase, setHaveFrame]
        rw [setBits_comm _ 0 6 Phase.converting.code (BitVec.ofBool false) (Or.inl (by decide)), setBits_overwrite]
        exact h
      have hrest : onRegs (setPhase .ready) (releaseFrame
          (onRegs (fun f => withStatusFrame f (setBits f2.status 0 Phase.converting.code) fr) u)) =
          record (.releaseFrame fr) u := by
        have hl : onRegs (setPhase .ready) (releaseFrame
            (onRegs (fun f => withStatusFrame f (setBits f2.status 0 Phase.converting.code) fr) u)) =
          onRegs (fun f => withStatusFrame f (setBits (setBits (setBits f2.status 0 Phase.converting.code) 6
            (BitVec.ofBool false)) 0 Phase.ready.code) 0) (record (.releaseFrame fr) u) := rfl
        rw [hl, hst3, onRegs, record_regs]
        have hu : withStatusFrame u.regs s.regs.status 0 = u.regs := by
          rw [hc, ← hkeep.1, ← hh, ← hkeep.2.1]
          rfl
        rw [hu]
        rfl
      cases o with
      | some er => simp only [hrest]; rfl
      | none =>
        simp only
        have hdone : ∀ w : State, onRegs (setPhase .ready) (onRegs (setPhase .done) w) = onRegs (setPhase .ready) w := by
          intro w
          show State.mk (setPhase .ready (setPhase .done w.regs)) _ _ _ _ _ _ _ _ = _
          rw [setPhase_setPhase]
          rfl
        rw [hdone, hrest]
        show respondOk [u.regs.dstH] _ = respondOk [al.dst] _
        rw [hc, hkeep.2.2]

end Sys2Proof.Machine
end

