-- ==== Sys2Proof/Laws/Stall.lean ====
section
/-! SUPPORT. The number of the call that is never answered decides only whether a command ends: what the command does with its
calls answered does not read it (spec/70_reset_and_hazards.md R268, U13). -/

namespace Sys2Proof.Machine

/-- The state with another number of the unanswered call. -/
def setStall (k : Option Nat) (s : State) : State := { s with env := { s.env with stallAt := k } }

@[simp] theorem setStall_regs (k : Option Nat) (s : State) : (setStall k s).regs = s.regs := rfl

@[simp] theorem setStall_trace (k : Option Nat) (s : State) : (setStall k s).trace = s.trace := rfl

@[simp] theorem setStall_responses (k : Option Nat) (s : State) : (setStall k s).responses = s.responses := rfl

@[simp] theorem setStall_mem (k : Option Nat) (s : State) : (setStall k s).mem = s.mem := rfl

@[simp] theorem setStall_commands (k : Option Nat) (s : State) : (setStall k s).commands = s.commands := rfl

@[simp] theorem setStall_index (k : Option Nat) (s : State) : (setStall k s).index = s.index := rfl

@[simp] theorem setStall_platform (k : Option Nat) (s : State) : (setStall k s).platform = s.platform := rfl

@[simp] theorem setStall_freeIndex (k : Option Nat) (s : State) : (setStall k s).freeIndex = s.freeIndex := rfl

@[simp] theorem setStall_stallAt (k : Option Nat) (s : State) : (setStall k s).env.stallAt = k := rfl

@[simp] theorem setStall_setStall (j k : Option Nat) (s : State) : setStall k (setStall j s) = setStall k s := rfl

theorem onRegs_setStall (g : RegFile → RegFile) (k : Option Nat) (s : State) :
    onRegs g (setStall k s) = setStall k (onRegs g s) := rfl

theorem record_setStall (e : EnvEvent) (k : Option Nat) (s : State) :
    record e (setStall k s) = setStall k (record e s) := rfl

theorem raise_setStall (e : ErrCode) (k : Option Nat) (s : State) :
    raise e (setStall k s) = setStall k (raise e s) := rfl

theorem respondOk_setStall (data : List Word) (k : Option Nat) (s : State) :
    respondOk data (setStall k s) = setStall k (respondOk data s) := rfl

theorem transfer_setStall (ms : List Move) (k : Option Nat) (s : State) :
    transfer ms (setStall k s) = ((transfer ms s).1, setStall k (transfer ms s).2) := by
  unfold transfer
  rw [setStall_platform, setStall_mem]
  cases runMoves s.platform s.mem ms with
  | none => rfl
  | some m => cases (rowsDisjoint ms && srcDstDisjoint ms) <;> rfl

theorem convertBody_setStall (k : Option Nat) (s : State) :
    convertBody (setStall k s) = ((convertBody s).1, setStall k (convertBody s).2) := by
  unfold convertBody
  rw [setStall_regs]
  rcases transcoderOf (xselSel s.regs) with _ | (_ | _ | _)
  · rfl
  · cases blitParamsOk s.regs <;> simp [transfer_setStall]
  · cases stackParamsOk s.regs <;> simp [transfer_setStall]
  · cases bgrParamsOk s.regs <;> simp [transfer_setStall]

theorem endTransfer_setStall (r : Option ErrCode) (k : Option Nat) (s : State) :
    endTransfer (r, setStall k s) = setStall k (endTransfer (r, s)) := by cases r <;> rfl

/-! ### The calls -/

theorem callInitializeEngine_setStall (k : Option Nat) (s : State) :
    callInitializeEngine (setStall k s) = ((callInitializeEngine s).1, setStall k (callInitializeEngine s).2) := rfl

theorem callEvaluate_setStall (r : Word) (b : Bool) (k : Option Nat) (s : State) :
    callEvaluate r b (setStall k s) = ((callEvaluate r b s).1, setStall k (callEvaluate r b s).2) := rfl

theorem callGetOutputNode_setStall (c : Word) (i : BitVec 8) (k : Option Nat) (s : State) :
    callGetOutputNode c i (setStall k s) = ((callGetOutputNode c i s).1, setStall k (callGetOutputNode c i s).2) := rfl

theorem callGetFrame_setStall (nd n : Word) (k : Option Nat) (s : State) :
    callGetFrame nd n (setStall k s) = ((callGetFrame nd n s).1, setStall k (callGetFrame nd n s).2) := rfl

theorem callAllocFrame_setStall (c w h : Word) (k : Option Nat) (s : State) :
    callAllocFrame c w h (setStall k s) = ((callAllocFrame c w h s).1, setStall k (callAllocFrame c w h s).2) := rfl

/-! ### The session commands -/

theorem loadDescriptor_setStall (k : Option Nat) (s : State) :
    loadDescriptor (setStall k s) = setStall k (loadDescriptor s) := rfl

theorem fetchPlane_setStall (p : Plane) (k : Option Nat) (s : State) :
    fetchPlane (setStall k s) p = setStall k (fetchPlane s p) := rfl

theorem foldl_fetchPlane_setStall (ps : List Plane) (k : Option Nat) (s : State) :
    ps.foldl fetchPlane (setStall k s) = setStall k (ps.foldl fetchPlane s) := by
  induction ps generalizing s with
  | nil => rfl
  | cons p ps ih => rw [List.foldl_cons, List.foldl_cons, fetchPlane_setStall, ih]

theorem fetchPlanes_setStall (k : Option Nat) (s : State) : fetchPlanes (setStall k s) = setStall k (fetchPlanes s) :=
  foldl_fetchPlane_setStall _ k s

theorem releaseFrame_setStall (k : Option Nat) (s : State) : releaseFrame (setStall k s) = setStall k (releaseFrame s) := rfl

theorem failOpen_setStall (e : ErrCode) (k : Option Nat) (s : State) :
    failOpen e (setStall k s) = setStall k (failOpen e s) := by
  rw [failOpen_eq, failOpen_eq]
  rfl

/-- `Acquire` on the two states: the same answer, the states differing in the number alone. -/
theorem acquire_setStall (k : Option Nat) (s : State) :
    acquire (setStall k s) = match acquire s with
      | .error (e, t) => .error (e, setStall k t)
      | .ok t => .ok (setStall k t) := by
  unfold acquire
  rw [callInitializeEngine_setStall]
  rcases callInitializeEngine s with ⟨_ | _, s1⟩
  · rfl
  · simp only [onRegs_setStall, setStall_regs, callEvaluate_setStall]
    rcases callEvaluate _ _ _ with ⟨c | d, s2⟩
    · simp only [onRegs_setStall, setStall_regs, callGetOutputNode_setStall]
      rcases callGetOutputNode _ _ _ with ⟨_ | nd, s3⟩ <;> rfl
    · rfl

theorem openBody_setStall (k : Option Nat) (s : State) : openBody (setStall k s) = setStall k (openBody s) := by
  unfold openBody
  rw [onRegs_setStall, acquire_setStall]
  rcases acquire (onRegs clearForOpen s) with ⟨e, t⟩ | t
  · exact failOpen_setStall e k t
  · simp only [loadDescriptor_setStall, setStall_regs]
    rcases validate (loadDescriptor t).regs with ⟨_ | e, f⟩
    · rfl
    · exact failOpen_setStall e k { loadDescriptor t with regs := f }

theorem getframeBody_setStall (n : Word) (k : Option Nat) (s : State) :
    getframeBody n (setStall k s) = setStall k (getframeBody n s) := by
  unfold getframeBody
  simp only [onRegs_setStall, setStall_regs, callGetFrame_setStall]
  rcases callGetFrame _ _ _ with ⟨_ | fr, s1⟩
  · rfl
  · simp only [onRegs_setStall, setStall_regs, callAllocFrame_setStall]
    rcases callAllocFrame _ _ _ _ with ⟨_ | al, s2⟩
    · rfl
    · simp only [onRegs_setStall, fetchPlanes_setStall, convertBody_setStall]
      rcases convertBody _ with ⟨_ | e, s3⟩ <;> rfl

theorem closeBody_setStall (k : Option Nat) (s : State) : closeBody (setStall k s) = setStall k (closeBody s) := by
  unfold closeBody
  rw [closeReleases_eq, closeReleases_eq]
  rfl

/-- What a command with calls does when the call numbered `k` is never answered, said of what it does with all answered. -/
theorem afterCalls_setStall (k : Option Nat) (s t : State) :
    afterCalls (setStall k s) (setStall k t) =
      if stallsBetween { s.env with stallAt := k } s.trace.length t.trace.length then .fault .envNeverAnswers
      else .next (setStall k t) := rfl

end Sys2Proof.Machine
end

