-- ==== Sys2Proof/Laws/Transcoders.lean ====
section
/-! SUPPORT. The small lemmas of the format predicates, the plane geometry, the parameter checks and the bodies of the
transcoders, so that no later proof unfolds them (spec/41_format_table.md R131, 42_geometry_and_select.md R160,
43_transcoders.md R171, R172, R176, R183). -/

namespace Sys2Proof.Machine

/-! ### The columns of R131 -/

/-- A `C_FMT` value is the number of a consumer format exactly when it is below 16. -/
theorem consumerOf_eq_some (c : Word) (x : ConsumerFormat) : consumerOf c = some x ↔ x.code = c := by
  constructor
  · intro h
    have := List.find?_some h
    simpa using this
  · rintro rfl
    cases x <;> rfl

theorem isPacked_iff (c : Word) : isPacked c = true ↔ c ∈ [(13 : Word), 14, 15] := by
  constructor
  · intro h
    cases hc : consumerOf c with
    | none => rw [isPacked, hc] at h; cases h
    | some x =>
      rw [isPacked, hc] at h
      rw [← (consumerOf_eq_some c x).mp hc]
      revert h
      cases x <;> decide
  · intro h
    fin_cases h <;> rfl

theorem isWide_iff (c : Word) : isWide c = true ↔ c ∈ [(2 : Word), 7, 8, 9, 10, 11, 12] := by
  constructor
  · intro h
    cases hc : consumerOf c with
    | none => rw [isWide, hc] at h; cases h
    | some x =>
      rw [isWide, hc] at h
      rw [← (consumerOf_eq_some c x).mp hc]
      revert h
      cases x <;> decide
  · intro h
    fin_cases h <;> rfl

theorem nDst_of_code (x : ConsumerFormat) : nDst x.code = x.planeCount := by cases x <;> rfl

/-! ### Parameter checks (R171) -/

theorem legalBps_iff (v : Word) : legalBps v = true ↔ v = 1 ∨ v = 2 ∨ v = 4 := by
  simp [legalBps, or_assoc]

theorem legalSs_iff (v : Word) : legalSs v = true ↔ v.toNat ≤ 4 := by simp [legalSs]

theorem blitParamsOk_iff (f : RegFile) : blitParamsOk f = true ↔
    (f.pPlanes = 1 ∨ f.pPlanes = 3) ∧ (f.pBps = 1 ∨ f.pBps = 2 ∨ f.pBps = 4) ∧ f.pSs.toNat ≤ 4 ∧ f.cFmt ≠ 0 ∧
      (f.cFmt = 14 ∨ f.cFmt = 15 → f.pPlanes = 1) := by
  simp only [blitParamsOk, Bool.and_eq_true, Bool.or_eq_true, beq_iff_eq, legalBps_iff, legalSs_iff, bne_iff_ne,
    Bool.not_eq_true', and_assoc]
  by_cases h14 : f.cFmt = 14#32 <;> by_cases h15 : f.cFmt = 15#32 <;> simp [h14, h15]

theorem stackParamsOk_iff (f : RegFile) : stackParamsOk f = true ↔
    (f.pPlanes = 1 ∨ f.pPlanes = 3) ∧ f.pBps = 2 ∧ f.pSs.toNat ≤ 4 ∧ f.cFmt ∈ [(1 : Word), 3, 4, 5, 6] := by
  simp [stackParamsOk, legalSs_iff, or_assoc, and_assoc]

theorem bgrParamsOk_iff (f : RegFile) : bgrParamsOk f = true ↔
    f.pPlanes = 3 ∧ f.pBps = 1 ∧ f.pSs = 0 ∧ f.cFmt = 13 := by
  simp [bgrParamsOk, and_assoc]

theorem convertParamsOk_iff (f : RegFile) : convertParamsOk f = true ↔
    (xselSel f = 0 ∧ blitParamsOk f = true) ∨ (xselSel f = 1 ∧ stackParamsOk f = true) ∨
      (xselSel f = 2 ∧ bgrParamsOk f = true) := by
  unfold convertParamsOk transcoderOf
  by_cases h0 : xselSel f = 0#2 <;> by_cases h1 : xselSel f = 1#2 <;> by_cases h2 : xselSel f = 2#2 <;>
    simp [h0, h1, h2, transcoderParamsOk]

/-! ### The bodies -/

/-- The destination row length of BGRPACK is `3 * W` modulo 2^32 (R160, U6). -/
theorem bgrRowBytes_toNat (f : RegFile) : (bgrRowBytes f).toNat = 3 * f.pWidth.toNat % 2 ^ 32 := by
  simp [bgrRowBytes, BitVec.toNat_mul]

theorem mem_planesBelow (n : Nat) (p : Plane) : p ∈ planesBelow n ↔ p.val < n := by
  fin_cases p <;> simp [planesBelow, allPlanes]

/-- The moves of BLIT, one for each byte of each row of each plane (R172). -/
theorem mem_blitMoves (f : RegFile) (mv : Move) : mv ∈ blitMoves f ↔
    ∃ (p : Plane) (y k : Nat), p.val < f.pPlanes.toNat ∧ y < (planeGeometry f p).rows.toNat ∧
      k < (planeGeometry f p).rowBytes.toNat ∧
      mv = .copy (byteAddr (rowAddr (srcPlane f p) y) k)
        (byteAddr (rowAddr (dstPlane f p) (blitRow (xselFlip f) (planeGeometry f p).rows.toNat y)) k) := by
  simp only [blitMoves, blitRowMoves, planesOf, List.mem_flatMap, List.mem_map, List.mem_range, mem_planesBelow]
  constructor
  · rintro ⟨p, hp, y, hy, k, hk, rfl⟩
    exact ⟨p, y, k, hp, hy, hk, rfl⟩
  · rintro ⟨p, y, k, hp, hy, hk, rfl⟩
    exact ⟨p, hp, y, hy, k, hk, rfl⟩

/-- The moves of STACK, one for each sample of each row of each plane (R176). -/
theorem mem_stackMoves (f : RegFile) (mv : Move) : mv ∈ stackMoves f ↔
    ∃ (p : Plane) (y i : Nat), p.val < f.pPlanes.toNat ∧ y < (planeGeometry f p).rows.toNat ∧
      i < (planeGeometry f p).width.toNat ∧
      mv = .split (byteAddr (rowAddr (srcPlane f p) y) (2 * i)) (byteAddr (rowAddr (dstPlane f p) y) i)
        (byteAddr (rowAddr (dstPlane f p) (y + (planeGeometry f p).rows.toNat)) i) := by
  simp only [stackMoves, stackRowMoves, planesOf, List.mem_flatMap, List.mem_map, List.mem_range, mem_planesBelow]
  constructor
  · rintro ⟨p, hp, y, hy, i, hi, rfl⟩
    exact ⟨p, y, i, hp, hy, hi, rfl⟩
  · rintro ⟨p, y, i, hp, hy, hi, rfl⟩
    exact ⟨p, hp, y, hy, i, hi, rfl⟩

/-- The moves of BGRPACK, one for each pixel (R183). -/
theorem mem_bgrMoves (f : RegFile) (mv : Move) : mv ∈ bgrMoves f ↔
    ∃ y i : Nat, y < f.pHeight.toNat ∧ i < f.pWidth.toNat ∧ mv = bgrPixelMove f y i := by
  simp only [bgrMoves, bgrRowMoves, List.mem_flatMap, List.mem_map, List.mem_range]
  constructor
  · rintro ⟨y, hy, i, hi, rfl⟩
    exact ⟨y, i, hy, hi, rfl⟩
  · rintro ⟨y, i, hy, hi, rfl⟩
    exact ⟨y, hy, i, hi, rfl⟩

/-- Moves that read `n` bytes each read `n` times their number. -/
theorem length_sourceBytes (ms : List Move) (n : Nat) (h : ∀ mv ∈ ms, (moveReads mv).length = n) :
    (sourceBytes ms).length = n * ms.length := by
  rw [sourceBytes, List.length_flatMap, List.map_congr_left h]
  simp [Nat.mul_comm]

/-- Moves that write `n` bytes each write `n` times their number. -/
theorem length_destBytes (ms : List Move) (n : Nat) (h : ∀ mv ∈ ms, (moveWrites mv).length = n) :
    (destBytes ms).length = n * ms.length := by
  rw [destBytes, List.length_flatMap, List.map_congr_left h]
  simp [Nat.mul_comm]

/-- A pixel of BGRPACK writes its three bytes, or as many as the row has room for. -/
theorem length_moveWrites_bgrPixelMove (f : RegFile) (y i : Nat) :
    (moveWrites (bgrPixelMove f y i)).length = min ((bgrRowBytes f).toNat - 3 * i) 3 := by
  simp [moveWrites, bgrPixelMove]

end Sys2Proof.Machine
end

