-- ==== Sys2Proof/Tests/Slice0.lean ====
section
/-! SUPPORT. Our own tests: the WellFormed smoke tests, the decoding of words written out from spec/30_encoding.md, small
one-step tests from the vectors of spec/95_test_vectors.md (named V-… or P1 to P5 there), and for each statement with
hypotheses a witness: a concrete state and operands that meet all of them together. -/

open Sys2Proof Sys2Proof.Machine Sys2Proof.Safety Sys2Proof.Claims

namespace Sys2Proof.Tests

-- One theorem after the other: many kernel evaluations at once need a thread, and its stack, each.
set_option Elab.async false

/-! ### Helpers -/

/-- Memory with a run of bytes from an address on. -/
def fill (a : Nat) : List Byte → Memory → Memory
  | [], m => m
  | b :: bs, m => fill (a + 1) bs (Memory.write m a b)

/-- `n` bytes from an address on. -/
def dump (m : Memory) (a n : Nat) : List Byte := (List.range n).map fun k => Memory.read m (a + k)

/-- The reset state with these registers and this memory. -/
def withRegs (f : RegFile) (m : Memory) : State := { State.reset with regs := f, mem := m }

/-- The host presents one word. -/
def present (w : CommandWord) (s : State) : State := { s with commands := [w], index := 0 }

/-- The outcome is a next state with the property. -/
def nextWith (p : State → Bool) : Host.Outcome State Fault Refusal → Bool
  | .next t => p t
  | _ => false

/-- The last response is this one. -/
def said (code : BitVec 8) (data : List Word) (t : State) : Bool :=
  decide (t.responses.getLast? = some { code := code, data := data })

/-! ### Well-formedness: an ill-formed term for each check (R100, R101) -/

theorem test_wellFormed_every_command :
    ([.nop, .setr 0xFF 0xFFFFFFFF, .rdr 0xFF, .openSession, .getgeom, .getframe 0xFFFFFFFF, .close, .map, .resolve, .select,
      .blit, .stack, .bgrpack, .convert] : List Instr).all Instr.wellFormed = true := by decide

theorem test_wellFormed_imm_bounds :
    immFits 4294967295 = true ∧ immFits 4294967296 = false ∧ immFits (-2147483648) = true ∧
    immFits (-2147483649) = false := by decide

theorem test_illFormed_setr :
    (Asm.setr (.number 256) 0).wellFormed = false ∧ (Asm.setr (.name .ctrl) 4294967296).wellFormed = false := by decide

theorem test_illFormed_rdr : (Asm.rdr (.number 256)).wellFormed = false ∧ (Asm.rdr (.number 255)).wellFormed = true := by
  decide

theorem test_illFormed_getframe : (Asm.getframe 4294967296).wellFormed = false := by decide

theorem test_illFormed_setdesc :
    (Asm.setdesc 4294967296 0 0 0 0 0 0).wellFormed = false ∧ (Asm.setdesc 0 4294967296 0 0 0 0 0).wellFormed = false ∧
    (Asm.setdesc 0 0 4294967296 0 0 0 0).wellFormed = false ∧ (Asm.setdesc 0 0 0 4294967296 0 0 0).wellFormed = false ∧
    (Asm.setdesc 0 0 0 0 4294967296 0 0).wellFormed = false ∧ (Asm.setdesc 0 0 0 0 0 4294967296 0).wellFormed = false ∧
    (Asm.setdesc 0 0 0 0 0 0 4294967296).wellFormed = false := by decide

theorem test_illFormed_setrate :
    (Asm.setrate 4294967296 1 1).wellFormed = false ∧ (Asm.setrate 1 18446744073709551616 1).wellFormed = false ∧
    (Asm.setrate 1 1 18446744073709551616).wellFormed = false ∧ (Asm.setrate 1 18446744073709551615 1).wellFormed = true :=
  by decide

theorem test_illFormed_planes :
    (Asm.setsrc 3 0 0).wellFormed = false ∧ (Asm.setsrc 2 4294967296 0).wellFormed = false ∧
    (Asm.setsrc 2 0 4294967296).wellFormed = false ∧ (Asm.setdst 3 0 0).wellFormed = false ∧
    (Asm.setdst 0 4294967296 0).wellFormed = false ∧ (Asm.setdst 0 0 4294967296).wellFormed = false := by decide

theorem test_illFormed_opensrc :
    (Asm.opensrc 4294967296 0).wellFormed = false ∧ (Asm.opensrc 0 4294967296).wellFormed = false := by decide

/-! ### Decoding: words written out from R90, R91, R93 -/

theorem test_decode_nop : decode 0x0000000000000000 = .ok .nop := by decide
theorem test_decode_setr : decode 0x01310000FFFFFFFC = .ok (.setr 0x31 0xFFFFFFFC) := by decide
theorem test_decode_rdr : decode 0x0215000000000000 = .ok (.rdr 0x15) := by decide
theorem test_decode_open : decode 0x1000000000000000 = .ok .openSession := by decide
theorem test_decode_getgeom : decode 0x1100000000000000 = .ok .getgeom := by decide
theorem test_decode_getframe : decode 0x1200000000000007 = .ok (.getframe 7) := by decide
theorem test_decode_close : decode 0x1300000000000000 = .ok .close := by decide
theorem test_decode_map : decode 0x2000000000000000 = .ok .map := by decide
theorem test_decode_resolve : decode 0x2100000000000000 = .ok .resolve := by decide
theorem test_decode_select : decode 0x2200000000000000 = .ok .select := by decide
theorem test_decode_blit : decode 0x3000000000000000 = .ok .blit := by decide
theorem test_decode_stack : decode 0x3100000000000000 = .ok .stack := by decide
theorem test_decode_bgrpack : decode 0x3200000000000000 = .ok .bgrpack := by decide
theorem test_decode_convert : decode 0x3300000000000000 = .ok .convert := by decide

/-- V-DEC-1. -/
theorem test_decode_illegal_opcodes :
    ([0x0300000000000000, 0xFF00000000000000, 0x1400000000000000, 0x3400000000000000] : List CommandWord).all
      (fun w => decide (decode w = .error .unassignedOpcode)) = true := by decide

/-- V-DEC-1. -/
theorem test_decode_illegal_fields :
    decode 0x0000000000000001 = .error .immNotZero ∧ decode 0x0001000000000000 = .error .raNotZero ∧
    decode 0x0000800000000000 = .error .rsvNotZero ∧ decode 0x0110000100000060 = .error .rsvNotZero ∧
    decode 0x0202000000000001 = .error .immNotZero ∧ decode 0x1201000000000000 = .error .raNotZero ∧
    decode 0x1300000000000001 = .error .immNotZero ∧ decode 0x3000000100000000 = .error .rsvNotZero := by decide

theorem test_decodeTableWord : decodeTableWord 64 0x1200000000000007 = some (.getframe 7) ∧
    decodeTableWord 64 0x0300000000000000 = none := by decide

theorem test_encode : encode (.setr 0x15 64) = 0x0115000000000040 ∧ encode (.getframe 7) = 0x1200000000000007 := by decide

/-- `-4` in a line is the word 0x01310000FFFFFFFC (V-REG-1); names and numbers name the same register (R100). -/
theorem test_assembler_line :
    assemble (.setr (.name .srcStride0) (-4)) = some [0x01310000FFFFFFFC] ∧
    (parseLine "  SETR 0x31, -4 ; stride".toList).bind assemble = some [0x01310000FFFFFFFC] := by decide +kernel

/-! ### Small states -/

/-- V-BLIT-1: GRAY8 2 by 2, prepared. -/
def grayRegs : RegFile :=
  { RegFile.zero with pFmt := 0x10, pBps := 1, pPlanes := 1, pWidth := 2, pHeight := 2, cFmt := 1, cWidth := 2, cHeight := 2,
                      srcBase0 := 0x1000, srcStride0 := 4, dstBase0 := 0x2000, dstStride0 := 2 }

def grayState : State := withRegs grayRegs (fill 0x1000 [1, 2] (fill 0x1004 [3, 4] []))

/-- V-BLIT-3: BGR32 2 by 2, prepared with `BGR32_FLIP` = 1. -/
def flipRegs : RegFile :=
  { RegFile.zero with pFmt := 0x70, pBps := 1, pPlanes := 1, pPacked := 1, pWidth := 2, pHeight := 2, cFmt := 14, xsel := 4,
                      cWidth := 2, cHeight := 2, srcBase0 := 0x1000, srcStride0 := 8, dstBase0 := 0x2000, dstStride0 := 8 }

def flipState : State := withRegs flipRegs
  (fill 0x1000 [0x01, 0x02, 0x03, 0x04, 0x05, 0x06, 0x07, 0x08] (fill 0x1008 [0x11, 0x12, 0x13, 0x14, 0x15, 0x16, 0x17, 0x18] []))

/-- P2: GRAY16 3 by 2, stacked. -/
def stackRegs : RegFile :=
  { RegFile.zero with ctrl := 2, pFmt := 0x13, pBps := 2, pPlanes := 1, pWidth := 3, pHeight := 2, cFmt := 1, pmode := 2,
                      xsel := 1, cWidth := 3, cHeight := 4, srcBase0 := 0x1000, srcStride0 := 8, dstBase0 := 0x2000,
                      dstStride0 := 4 }

def stackState : State := withRegs stackRegs
  (fill 0x1000 [0x00, 0x00, 0xFF, 0x00, 0x00, 0xFF] (fill 0x1008 [0x34, 0x12, 0xFF, 0x03, 0xFF, 0xFF] []))

/-- P1: RGB24 2 by 2 to BGR24. -/
def bgrRegs : RegFile :=
  { RegFile.zero with pFmt := 0x60, pBps := 1, pPlanes := 3, pWidth := 2, pHeight := 2, cFmt := 13, xsel := 2, cWidth := 2,
                      cHeight := 2, srcBase0 := 0x1000, srcStride0 := 4, srcBase1 := 0x1100, srcStride1 := 4,
                      srcBase2 := 0x1200, srcStride2 := 4, dstBase0 := 0x2000, dstStride0 := 8 }

def bgrState : State := withRegs bgrRegs
  (fill 0x1000 [0x11, 0x12] (fill 0x1004 [0x13, 0x14] (fill 0x1100 [0x21, 0x22] (fill 0x1104 [0x23, 0x24]
    (fill 0x1200 [0x31, 0x32] (fill 0x1204 [0x33, 0x34] []))))))

/-- V-BLIT-7: writes from 0x2004 on are refused. -/
def refusedState : State :=
  { grayState with regs := { grayRegs with pWidth := 4, dstStride0 := 4 },
                   platform := { bgr32Flip := true, refused := [{ base := 0x2004, size := 4294967296, refusesRead := false,
                                                                  refusesWrite := true }] } }

/-- A blit onto its own source (20_memory.md R68 b fails). -/
def overlapState : State := { grayState with regs := { grayRegs with dstBase0 := 0x1001 } }

/-- The descriptor of P3: YUV420P8 4 by 2, 2 frames, 24000/1001. -/
def descriptor : Descriptor :=
  { fmt := 0x20, bps := 1, planes := 3, ss := 3, packed := 0, width := 4, height := 2, frames := 2, fpsnum := 24000,
    fpsden := 1001 }

def allocation : Allocation :=
  { dst := 0xB1, plane0 := { base := 0x8000, stride := 4 }, plane1 := { base := 0x8040, stride := 2 },
    plane2 := { base := 0x8080, stride := 2 } }

def planes : Plane → PlaneRef
  | 0 => { base := 0x4000, stride := 8 }
  | 1 => { base := 0x4040, stride := 4 }
  | 2 => { base := 0x4080, stride := 4 }

/-- The answers of P3 for OPEN and one frame. -/
def goodEnv : Environment :=
  { initializeEngine := [true], evaluate := [.ok 0xC0], getOutputNode := [some 0xD0], getFormatDescriptor := [descriptor],
    getFrame := [some 0xF0], getPlaneData := [planes 0, planes 1, planes 2], allocFrame := [some allocation],
    stallAt := none }

/-- Before the OPEN of P3. -/
def closedState : State := { State.reset with regs := { RegFile.zero with scriptRef := 0x5000 }, env := goodEnv }

/-- After it: the session of P3 in READY, with frame 0 in memory. -/
def sessionState : State :=
  { closedState with regs := readyRegs true 0xC0 0xD0 descriptor { RegFile.zero with scriptRef := 0x5000 },
                     trace := openCalls { RegFile.zero with scriptRef := 0x5000 } 0xC0 0xD0 descriptor,
                     mem := fill 0x4000 [0x10, 0x11, 0x12, 0x13] (fill 0x4008 [0x14, 0x15, 0x16, 0x17]
                       (fill 0x4040 [0x80, 0x81] (fill 0x4080 [0xC0, 0xC1] []))) }

/-- After an OPEN that failed with `E_FPS_RANGE` (P4). -/
def failedState : State := withRegs (failedRegs .fpsRange 0 { RegFile.zero with pFpsnumHi := 1 }) []

/-! ### One-step tests, at most two per command -/

/-- V-REG-1. -/
theorem test_nop : nextWith (fun t => said 0 [] t && decide (t.regs = RegFile.zero ∧ t.index = 1))
    (step (present 0x0000000000000000 State.reset)) = true := by decide +kernel

/-- V-REG-1: CTRL takes only its writable bits. -/
theorem test_setr_mask : nextWith (fun t => said 0 [] t && decide (t.regs.ctrl = 0x0000FF07))
    (step (present 0x01000000FFFFFFFF State.reset)) = true := by decide +kernel

/-- V-DEC-2: in session `E_STATE` comes before `E_REG`. -/
theorem test_setr_in_session : nextWith (fun t => said 12 [] t && decide (t.regs = sessionState.regs))
    (step (present 0x0102000000000005 sessionState)) = true := by decide +kernel

/-- P3 step 4: STATUS of an open session. -/
theorem test_rdr_status : nextWith (said 0 [0x3A]) (step (present 0x0202000000000000 sessionState)) = true := by
  decide +kernel

/-- V-REG-2. -/
theorem test_rdr_unimplemented : nextWith (said 15 []) (step (present 0x0236000000000000 sessionState)) = true := by
  decide +kernel

/-- P3 step 3, the registers as listed there. -/
theorem test_open_ready : nextWith (fun t => said 0 [] t && decide (t.regs =
      { RegFile.zero with scriptRef := 0x5000, status := 0x3A, pFmt := 0x20, pBps := 1, pPlanes := 3, pSs := 3, pWidth := 4,
                          pHeight := 2, pFrames := 2, pFpsnumLo := 0x5DC0, pFpsdenLo := 0x3E9, cFmt := 3, cWidth := 4,
                          cHeight := 2, cFrames := 2, cFpsnum := 0x5DC0, cFpsden := 0x3E9, ctxH := 0xC0, nodeH := 0xD0 }))
    (step (present 0x1000000000000000 closedState)) = true := by decide +kernel

/-- V-OPEN-10: `fpsden` = 2^32 + 5, the full unwind. -/
theorem test_open_fps_range : nextWith (fun t => said 7 [] t &&
      decide (t.regs.status = 0x0706 ∧ t.regs.pFpsdenHi = 1 ∧ t.regs.pFpsdenLo = 5 ∧ t.regs.nodeH = 0 ∧
        t.trace.drop 4 = [.releaseNode 0xD0, .releaseContext 0xC0, .engineRelease]))
    (step (present 0x1000000000000000 { closedState with
      env := { goodEnv with getFormatDescriptor := [{ descriptor with fpsden := 4294967301 }] } })) = true := by
  decide +kernel

/-- P3 step 5. -/
theorem test_getgeom : nextWith (said 0 [0x4, 0x2, 0x2, 0x5DC0, 0x3E9, 0x3])
    (step (present 0x1100000000000000 sessionState)) = true := by decide +kernel

/-- P3 step 7: the buffer's bytes, the handle, the release. -/
theorem test_getframe : nextWith (fun t => said 0 [0xB1] t &&
      decide (dump t.mem 0x8000 8 = [0x10, 0x11, 0x12, 0x13, 0x14, 0x15, 0x16, 0x17] ∧ dump t.mem 0x8040 2 = [0x80, 0x81] ∧
        dump t.mem 0x8080 2 = [0xC0, 0xC1] ∧ t.regs.status = 0x3A ∧ t.regs.frameH = 0 ∧ t.regs.dstH = 0xB1 ∧
        t.trace.getLast? = some (.releaseFrame 0xF0)))
    (step (present 0x1200000000000000 sessionState)) = true := by decide +kernel

/-- V-GF-1 (b): no buffer, the frame is released. -/
theorem test_getframe_alloc : nextWith (fun t => said 10 [] t && decide (t.regs = sessionState.regs ∧
        t.trace.drop 4 = [.getFrame 0xD0 0 (some 0xF0), .allocFrame 3 4 2 none, .releaseFrame 0xF0]))
    (step (present 0x1200000000000000 { sessionState with env := { goodEnv with allocFrame := [none] } })) = true := by
  decide +kernel

/-- P3 step 10. -/
theorem test_close : nextWith (fun t => said 0 [] t && decide (t.regs = { RegFile.zero with scriptRef := 0x5000 } ∧
        t.trace.drop 4 = [.releaseNode 0xD0, .releaseContext 0xC0, .engineRelease]))
    (step (present 0x1300000000000000 sessionState)) = true := by decide +kernel

/-- V-MAP row 0x23 with CTRL = 3, PMODE untouched. -/
theorem test_map : nextWith (fun t => said 0 [] t && decide (t.regs.cFmt = 7 ∧ t.regs.pmode = 2))
    (step (present 0x2000000000000000 (withRegs { RegFile.zero with pFmt := 0x23, ctrl := 3, pmode := 2 } []))) = true := by
  decide +kernel

/-- V-RES: rule 3 with a product that wraps. -/
theorem test_resolve_wraps : nextWith (fun t => said 0 [] t &&
      decide (t.regs.pmode = 2 ∧ t.regs.cWidth = 5 ∧ t.regs.cHeight = 0))
    (step (present 0x2100000000000000 (withRegs
      { RegFile.zero with pBps := 2, cFmt := 3, ctrl := 2, pWidth := 5, pHeight := 0x80000000 } []))) = true := by
  decide +kernel

/-- V-SEL: BGR24 with a stale Stacked, and BGR32. -/
theorem test_select : nextWith (fun t => decide (t.regs.xsel = 2))
      (step (present 0x2200000000000000 (withRegs { RegFile.zero with cFmt := 13, pmode := 2 } []))) = true ∧
    nextWith (fun t => decide (t.regs.xsel = 4))
      (step (present 0x2200000000000000 (withRegs { RegFile.zero with cFmt := 14 } []))) = true := by decide +kernel

/-- V-BLIT-1. -/
theorem test_blit : nextWith (fun t => said 0 [] t && decide (dump t.mem 0x2000 5 = [1, 2, 3, 4, 0] ∧ t.regs = grayRegs))
    (step (present 0x3000000000000000 grayState)) = true := by decide +kernel

/-- V-BLIT-2: a negative source stride. -/
theorem test_blit_negative_stride : nextWith (fun t => decide (dump t.mem 0x2000 6 = [0xC0, 0xC1, 0xB0, 0xB1, 0xA0, 0xA1]))
    (step (present 0x3000000000000000 (withRegs
      { grayRegs with pHeight := 3, srcBase0 := 0x1008, srcStride0 := 0xFFFFFFFC }
      (fill 0x1000 [0xA0, 0xA1] (fill 0x1004 [0xB0, 0xB1] (fill 0x1008 [0xC0, 0xC1] [])))))) = true := by decide +kernel

/-- P2: the padding byte of each row stays. -/
theorem test_stack : nextWith (fun t => said 0 [] t && decide (dump t.mem 0x2000 16 =
      [0x00, 0x00, 0xFF, 0x00, 0x12, 0x03, 0xFF, 0x00, 0x00, 0xFF, 0x00, 0x00, 0x34, 0xFF, 0xFF, 0x00]))
    (step (present 0x3100000000000000 stackState)) = true := by decide +kernel

/-- V-STACK-5: `P_BPS` = 1. -/
theorem test_stack_param : nextWith (fun t => said 14 [] t && decide (t.mem = stackState.mem))
    (step (present 0x3100000000000000 { stackState with regs := { stackRegs with pBps := 1 } })) = true := by decide +kernel

/-- P1: the reversed rows as B, G, R. -/
theorem test_bgrpack : nextWith (fun t => said 0 [] t && decide (dump t.mem 0x2000 16 =
      [0x33, 0x23, 0x13, 0x34, 0x24, 0x14, 0x00, 0x00, 0x31, 0x21, 0x11, 0x32, 0x22, 0x12, 0x00, 0x00]))
    (step (present 0x3200000000000000 bgrState)) = true := by decide +kernel

/-- V-BLIT-3: CONVERT with `XSEL` = 4 reverses the rows. -/
theorem test_convert_flip : nextWith (fun t => said 0 [] t && decide (dump t.mem 0x2000 16 =
      [0x11, 0x12, 0x13, 0x14, 0x15, 0x16, 0x17, 0x18, 0x01, 0x02, 0x03, 0x04, 0x05, 0x06, 0x07, 0x08]))
    (step (present 0x3300000000000000 flipState)) = true := by decide +kernel

/-- V-BLIT-7: `E_MEM`, no register changed, the source unchanged. -/
theorem test_convert_mem : nextWith (fun t => said 11 [] t &&
      decide (t.regs = refusedState.regs ∧ dump t.mem 0x1000 2 = [1, 2]))
    (step (present 0x3300000000000000 refusedState)) = true := by decide +kernel

/-! ### Witnesses: encoding and the step -/

theorem test_witness_EncodeThenDecode : (Instr.setr 0xFF 0xFFFFFFFF).wellFormed = true := by decide

theorem test_witness_DecodedWord : decode 0x01FF0000FFFFFFFF = .ok (.setr 0xFF 0xFFFFFFFF) := by decide

theorem test_witness_IllegalWords :
    decode 0x0000000000000001 = .error .immNotZero ∧ fetchWord (present 0x0000000000000001 State.reset) = some 1 ∧
    ∀ o : Opcode, o.number ≠ (0xFF00000000000000 : CommandWord).extractLsb' 56 8 := by
  refine ⟨by decide, by decide, fun o => ?_⟩
  cases o <;> decide

/-- A stalled environment: the first call is never answered. -/
def stalled (s : State) : State := { s with env := { s.env with stallAt := some s.trace.length } }

theorem test_witness_StepRuns :
    fetchWord (present 0x1000000000000000 closedState) = some 0x1000000000000000 ∧
    decode 0x1000000000000000 = .ok .openSession ∧ Instr.openSession.wellFormed = true ∧
    nextWith (fun _ => true) (exec .openSession (present 0x1000000000000000 closedState)) = true ∧
    exec .openSession (present 0x1000000000000000 (stalled closedState)) = .fault .envNeverAnswers ∧
    fetchWord State.reset = none := by
  refine ⟨by decide, by decide, rfl, by decide +kernel, rfl, rfl⟩

theorem test_witness_EveryStepGrows :
    fetchWord (present 0 State.reset) = some 0 ∧ nextWith (fun t => decide (t.index = 1)) (step (present 0 State.reset)) = true :=
  by decide +kernel

/-- Each check of R96 in each phase of a command boundary that reaches it. -/
theorem test_witness_Checks :
    (fetchWord (present 1 State.reset) = some 1 ∧ decode 1 = .error .immNotZero) ∧
    (phaseBits (present 0x3000000000000000 sessionState).regs = Phase.ready.code ∧
      phaseAccepts .blit .ready = false) ∧
    (phaseBits State.reset.regs = Phase.uninit.code ∧ phaseAccepts .getgeom .uninit = false) ∧
    (phaseBits failedState.regs = Phase.failed.code ∧ phaseAccepts .getframe .failed = false) ∧
    (phaseAccepts .setr .failed = true ∧ ¬ registerAccepted (.setr 0x02 5)) ∧
    (phaseAccepts .rdr .ready = true ∧ ¬ registerAccepted (.rdr 0x3E)) ∧
    (phaseAccepts .blit .uninit = true ∧ registerAccepted .blit ∧ ¬ parametersAccepted State.reset.regs .blit) ∧
    (phaseAccepts .getframe .ready = true ∧
      ¬ parametersAccepted { sessionState.regs with pPlanes := 2 } (.getframe 0)) ∧
    parametersAccepted sessionState.regs (.getframe 0) ∧
    nextWith (said 0 [0xB1]) (step (present 0x1200000000000000 sessionState)) = true := by
  refine ⟨by decide, by decide +kernel, by decide, by decide +kernel, ⟨by decide, ?_⟩, ⟨by decide, ?_⟩,
    ⟨by decide, trivial, ?_⟩, ⟨by decide, ?_⟩, ?_, by decide +kernel⟩
  · rintro ⟨r, h1, h2⟩
    revert h1 h2
    cases r <;> decide
  · rintro ⟨r, h⟩
    revert h
    cases r <;> decide
  · unfold parametersAccepted blitAccepted
    decide +kernel
  · unfold parametersAccepted convertAccepted blitAccepted stackAccepted bgrAccepted
    decide +kernel
  · unfold parametersAccepted convertAccepted blitAccepted stackAccepted bgrAccepted
    decide +kernel

/-- The edges of the table of R171: `P_BPS` = 4 passes BLIT and not STACK, `P_SS` = 4 passes and 5 does not, BGR32 needs one
plane, and `XSEL.SEL` = 3 passes nothing. -/
theorem test_witness_ParameterEdges :
    (blitAccepted { grayRegs with pBps := 4, pSs := 4 } ∧ ¬ blitAccepted { grayRegs with pSs := 5 } ∧
      ¬ blitAccepted { flipRegs with pPlanes := 3 }) ∧
    (stackAccepted { stackRegs with pSs := 4 } ∧ ¬ stackAccepted { stackRegs with pBps := 4 } ∧
      ¬ stackAccepted { stackRegs with cFmt := 2 }) ∧
    (bgrAccepted bgrRegs ∧ ¬ bgrAccepted { bgrRegs with pSs := 1 }) ∧
    convertAccepted bgrRegs ∧ ¬ convertAccepted { bgrRegs with xsel := 3 } := by
  unfold convertAccepted blitAccepted stackAccepted bgrAccepted
  refine ⟨⟨?_, ?_, ?_⟩, ⟨?_, ?_, ?_⟩, ⟨?_, ?_⟩, ?_, ?_⟩ <;> decide +kernel

theorem test_witness_PhaseTable :
    (phaseBits sessionState.regs = Phase.ready.code ∧ Phase.ready ∈ [Phase.uninit, .ready, .failed]) ∧
    phaseAccepts .map .ready = false ∧ phaseAccepts .getgeom .ready = true ∧
    nextWith (said 0 [4, 2, 2, 24000, 1001, 3]) (exec .getgeom sessionState) = true := by decide +kernel

theorem test_witness_OneResponse :
    nextWith (said 0 [0x5000]) (exec (.rdr 0x01) sessionState) = true ∧
    nextWith (said 0 [0xB1]) (exec (.getframe 0) sessionState) = true ∧
    nextWith (said 12 []) (exec .map sessionState) = true := by decide +kernel

theorem test_witness_EndsWhenAnswered : EnvAnswers sessionState ∧ EnvAnswers closedState := ⟨rfl, rfl⟩

theorem test_witness_Unanswered :
    (inSession closedState.regs = false ∧ (stalled closedState).env.stallAt = some (stalled closedState).trace.length) ∧
    (inSession sessionState.regs = true ∧ convertParamsOk sessionState.regs = true ∧ haveNode sessionState.regs = true ∧
      (stalled sessionState).env.stallAt = some (stalled sessionState).trace.length) ∧
    exec (.getframe 0) (stalled sessionState) = .fault .envNeverAnswers ∧
    exec .close (stalled sessionState) = .fault .envNeverAnswers := by
  refine ⟨by decide, by decide +kernel, rfl, rfl⟩

/-- The calls of OPEN, GETFRAME and CLOSE by their numbers: answered, OPEN makes 0 to 3, GETFRAME makes 4 to 9 and CLOSE 4 to
6; with the last of them never answered the command does not end, and with the next number it does. -/
theorem test_witness_UnansweredLater :
    nextWith (fun t => decide (t.trace.length = 4)) (exec .openSession (withStall none closedState)) = true ∧
    exec .openSession (withStall (some 3) closedState) = .fault .envNeverAnswers ∧
    nextWith (said 0 []) (exec .openSession (withStall (some 4) closedState)) = true ∧
    nextWith (fun t => decide (t.trace.length = 10)) (exec (.getframe 0) (withStall none sessionState)) = true ∧
    exec (.getframe 0) (withStall (some 9) sessionState) = .fault .envNeverAnswers ∧
    nextWith (said 0 [0xB1]) (exec (.getframe 0) (withStall (some 10) sessionState)) = true ∧
    nextWith (said 0 [0xB1]) (exec (.getframe 0) (withStall (some 3) sessionState)) = true ∧
    nextWith (fun t => decide (t.trace.length = 7)) (exec .close (withStall none sessionState)) = true ∧
    exec .close (withStall (some 6) sessionState) = .fault .envNeverAnswers := by
  refine ⟨?_, rfl, ?_, ?_, rfl, ?_, ?_, ?_, rfl⟩ <;> decide +kernel

/-! ### Witnesses: invariants -/

theorem test_witness_Boundary_session : BoundaryRegisters sessionState.platform.bgr32Flip sessionState.regs := by
  unfold BoundaryRegisters RegistersWellFormed BoundaryPhase ErrorFieldsConsistent OwnershipAtBoundary
  decide +kernel

theorem test_witness_Boundary_closed : BoundaryRegisters closedState.platform.bgr32Flip closedState.regs := by
  unfold BoundaryRegisters RegistersWellFormed BoundaryPhase ErrorFieldsConsistent OwnershipAtBoundary
  decide +kernel

theorem test_witness_Boundary_failed : BoundaryRegisters failedState.platform.bgr32Flip failedState.regs := by
  unfold BoundaryRegisters RegistersWellFormed BoundaryPhase ErrorFieldsConsistent OwnershipAtBoundary
  decide +kernel

theorem test_witness_wf_session : sessionState.mem.wf := by decide +kernel

theorem test_witness_TraceBalanced : TraceBalanced sessionState := by unfold TraceBalanced; decide +kernel

/-- The session of P3 meets the whole invariant; a GETFRAME and a CLOSE of it answer a next state. -/
theorem test_witness_Inv : Inv sessionState ∧
    nextWith (fun _ => true) (step (present 0x1200000000000000 sessionState)) = true ∧
    nextWith (fun t => decide (phaseBits t.regs ≠ Phase.ready.code)) (step (present 0x1300000000000000 sessionState)) = true :=
  ⟨⟨test_witness_wf_session, test_witness_Boundary_session, test_witness_TraceBalanced⟩, by decide +kernel,
    by decide +kernel⟩

theorem test_witness_PhaseTransitions :
    BoundaryPhase closedState.regs ∧ BoundaryPhase sessionState.regs ∧ BoundaryPhase failedState.regs ∧
    nextWith (fun t => decide (phaseBits t.regs = Phase.ready.code)) (exec .openSession closedState) = true ∧
    nextWith (fun t => decide (phaseBits t.regs = Phase.ready.code)) (exec .openSession sessionState) = true ∧
    nextWith (fun t => decide (phaseBits t.regs = Phase.uninit.code)) (exec .close failedState) = true := by
  unfold BoundaryPhase
  decide +kernel

theorem test_witness_SessionFields : phaseBits sessionState.regs = Phase.ready.code ∧ Instr.getframe 0 ≠ .close ∧
    nextWith (fun t => decide (t.regs ≠ sessionState.regs)) (exec (.getframe 0) sessionState) = true := by decide +kernel

theorem test_witness_NoMemoryAccess :
    Instr.close ∉ [Instr.blit, .stack, .bgrpack, .convert] ∧ (∀ n, Instr.close ≠ .getframe n) ∧
    nextWith (fun _ => true) (exec .close sessionState) = true := by
  refine ⟨by decide, fun n => by simp, by decide +kernel⟩

/-! ### Witnesses: host commands, Format Table, geometry -/

theorem test_witness_Setr :
    (∀ r, regIndex r ≠ 0x36) ∧ phaseBits State.reset.regs ≠ Phase.ready.code ∧ phaseBits failedState.regs ≠ Phase.ready.code ∧
    phaseBits sessionState.regs = Phase.ready.code ∧
    ((0x0110000100000060 : CommandWord).extractLsb' 56 8 = 0x01 ∧ (0x0110000100000060 : CommandWord).extractLsb' 32 16 ≠ 0) ∧
    fetchWord (present 0x0110000100000060 State.reset) = some 0x0110000100000060 := by
  refine ⟨fun r => ?_, by decide +kernel⟩
  cases r <;> decide

theorem test_witness_Rdr :
    (∀ r, regIndex r ≠ 0xFF) ∧
    (0x0202000000000001 : CommandWord).extractLsb' 56 8 = 0x02 ∧ (0x0202000000000001 : CommandWord).extractLsb' 0 32 ≠ 0 := by
  refine ⟨fun r => ?_, by decide⟩
  cases r <;> decide

theorem test_witness_MapTable : (0x10, 1, 1) ∈ mapRows ∧ (0x80, 15, 15) ∈ mapRows ∧ (0 : Word) ∉ mapRows.map Prod.fst ∧
    (0xFFFFFFFF : Word) ∉ mapRows.map Prod.fst := by decide

/-- `CTRL` = 2 and `CTRL` = 0xFF00 have the same NATIVE bit (R133). -/
theorem test_witness_Native :
    let f : RegFile := { RegFile.zero with pFmt := 0x23, ctrl := 2 }
    let g : RegFile := { RegFile.zero with pFmt := 0x23, ctrl := 0xFF00, pBps := 7 }
    f.pFmt = g.pFmt ∧ f.ctrl.getLsbD 0 = g.ctrl.getLsbD 0 ∧ f ≠ g := by decide

/-- A consistent 16-bit 4:2:0 descriptor of 4 by 2 (0x23). -/
def yuvRegs (ctrl : Word) : RegFile :=
  { RegFile.zero with ctrl := ctrl, pFmt := 0x23, pBps := 2, pPlanes := 3, pSs := 3, pWidth := 4, pHeight := 2 }

/-- The hypotheses with each packing mode resolved: DoubledWidth, Stacked, Native. -/
theorem test_witness_Geometry :
    ([0, 2, 1] : List Word).all (fun c =>
      descriptorConsistent (yuvRegs c) && decide ((2 : Plane).val < (yuvRegs c).pPlanes.toNat)) = true ∧
    GeomFits (yuvRegs 0) ∧ (2 : Plane) ≠ 0 ∧ (yuvRegs 0).pFmt ≠ 0x70 ∧ (yuvRegs 0).pFmt ≠ 0x80 ∧
    ((yuvRegs 0).pWidth.toNat % 2 = 0 ∧ (yuvRegs 0).pHeight.toNat % 2 = 0 ∧
      ((yuvRegs 0).pSs, 2, 2) ∈ chromaFactors) ∧
    ([0, 2, 1] : List Word).map (fun c => (resolvedFrom true (yuvRegs c)).pmode) = [1, 2, 0] := by
  unfold GeomFits
  decide +kernel

/-- The formats whose consumer format is packed: RGB24, BGR32 and YUY2, the last two with their widest rows. -/
theorem test_witness_Geometry_packed :
    let rgb : RegFile := { RegFile.zero with pFmt := 0x60, pBps := 1, pPlanes := 3, pWidth := 2, pHeight := 2 }
    let bgr32 : RegFile :=
      { RegFile.zero with pFmt := 0x70, pBps := 4, pPlanes := 1, pPacked := 1, pWidth := 0x3FFFFFFF, pHeight := 1 }
    let yuy2 : RegFile :=
      { RegFile.zero with pFmt := 0x80, pBps := 2, pPlanes := 1, pPacked := 1, pWidth := 0x7FFFFFFF, pHeight := 1 }
    [rgb, bgr32, yuy2].all (fun f => descriptorConsistent f) = true ∧ GeomFits rgb ∧ GeomFits bgr32 ∧ GeomFits yuy2 ∧
    4 * bgr32.pWidth.toNat < 2 ^ 32 ∧ 2 * yuy2.pWidth.toNat < 2 ^ 32 ∧
    [rgb, bgr32, yuy2].map (fun f => (resolvedFrom true f).cFmt) = [13, 14, 15] := by
  unfold GeomFits
  decide +kernel

/-- The cases of the copy geometry, each class of R161 among them. -/
theorem test_witness_RowLengths :
    (planeGeometry { flipRegs with pWidth := 0x40000001 } 0).rowBytes = 4 ∧
    (planeGeometry { flipRegs with cFmt := 15, pWidth := 0x80000001 } 0).rowBytes = 2 ∧
    ([0, 1, 2, 3, 4] : List Word).map (fun c =>
      let g := planeGeometry { grayRegs with pSs := c, pWidth := 9, pHeight := 5, pBps := 2 } 1
      (g.width, g.rows, g.rowBytes)) = [(9, 5, 18), (9, 5, 18), (4, 5, 8), (4, 2, 8), (2, 5, 4)] := by decide +kernel

/-- U6 at its edge: with `P_WIDTH` = 0x55555556, `u32(3 * W)` is 2, so a row keeps B and G of pixel 0 and nothing of pixel 1,
while every pixel is still read. -/
theorem test_bgr_row_wraps :
    let f : RegFile := { bgrRegs with pWidth := 0x55555556 }
    bgrRowBytes f = 2 ∧ (moveWrites (bgrPixelMove f 0 0)).length = 2 ∧ (moveWrites (bgrPixelMove f 0 1)).length = 0 ∧
    sourceBytes [bgrPixelMove f 0 1] = [0x1001, 0x1101, 0x1201] ∧ InBgr f 0 0 1 ∧ ¬ InBgr f 0 0 2 := by
  unfold InBgr
  decide +kernel

/-! ### Witnesses: transcoders -/

/-- `AllAdmitted` as something to evaluate. -/
def admittedAll (pl : Platform) (ms : List Move) : Bool :=
  (sourceBytes ms).all (fun a => admits pl a .r) && (destBytes ms).all (fun a => admits pl a .w)

theorem allAdmitted_iff (pl : Platform) (ms : List Move) : AllAdmitted pl ms ↔ admittedAll pl ms = true := by
  simp [AllAdmitted, admittedAll, List.all_eq_true]

theorem test_witness_Blit :
    grayState.mem.wf ∧ phaseBits grayState.regs ≠ Phase.ready.code ∧ blitParamsOk grayState.regs = true ∧
    AllAdmitted grayState.platform (blitMoves grayState.regs) ∧ PlanesDisjoint (blitMoves grayState.regs) ∧
    InBlit grayState.regs 0 0 0 ∧ InBlit grayState.regs 0 1 1 := by
  unfold PlanesDisjoint InBlit
  rw [allAdmitted_iff]
  decide +kernel

/-- The same for a blit that reverses the rows. -/
theorem test_witness_Blit_flip :
    flipState.mem.wf ∧ phaseBits flipState.regs ≠ Phase.ready.code ∧ blitParamsOk flipState.regs = true ∧
    AllAdmitted flipState.platform (blitMoves flipState.regs) ∧ PlanesDisjoint (blitMoves flipState.regs) ∧
    InBlit flipState.regs 0 1 7 ∧ blitDst flipState.regs 0 1 7 = 0x2007 := by
  unfold PlanesDisjoint InBlit
  rw [allAdmitted_iff]
  decide +kernel

theorem test_witness_Stack :
    stackState.mem.wf ∧ phaseBits stackState.regs ≠ Phase.ready.code ∧ stackParamsOk stackState.regs = true ∧
    AllAdmitted stackState.platform (stackMoves stackState.regs) ∧ PlanesDisjoint (stackMoves stackState.regs) ∧
    InStack stackState.regs 0 0 0 ∧ InStack stackState.regs 0 1 2 := by
  unfold PlanesDisjoint InStack
  rw [allAdmitted_iff]
  decide +kernel

theorem test_witness_Bgrpack :
    bgrState.mem.wf ∧ phaseBits bgrState.regs ≠ Phase.ready.code ∧ bgrParamsOk bgrState.regs = true ∧
    AllAdmitted bgrState.platform (bgrMoves bgrState.regs) ∧ PlanesDisjoint (bgrMoves bgrState.regs) ∧
    InBgr bgrState.regs 0 0 0 ∧ InBgr bgrState.regs 1 1 2 ∧ bgrDst bgrState.regs 1 1 2 = 0x2005 := by
  unfold PlanesDisjoint InBgr
  rw [allAdmitted_iff]
  decide +kernel

/-- `XSEL.SEL` = 0, 1, 2 with the premises of a conversion, and 3. -/
theorem test_witness_Convert :
    flipState.regs.xsel.extractLsb' 0 2 = 0 ∧ stackState.regs.xsel.extractLsb' 0 2 = 1 ∧
    bgrState.regs.xsel.extractLsb' 0 2 = 2 ∧ (3 : Word).extractLsb' 0 2 = 3 ∧
    phaseBits { RegFile.zero with xsel := 3 } ≠ Phase.ready.code ∧
    [flipState, stackState, bgrState].all (fun s => convertParamsOk s.regs &&
      rowsDisjoint (movesRun s.regs .convert) && srcDstDisjoint (movesRun s.regs .convert)) = true ∧
    AllAdmitted bgrState.platform (movesRun bgrState.regs .convert) := by
  simp only [allAdmitted_iff]
  decide +kernel

/-- The frame of a transcoder with overlapping planes and with a refused access. -/
theorem test_witness_TouchOnly :
    Instr.blit ∈ [Instr.blit, .stack, .bgrpack, .convert] ∧ overlapState.mem.wf ∧ refusedState.mem.wf ∧
    srcDstDisjoint (movesRun overlapState.regs .blit) = false ∧
    nextWith (said 0 []) (exec .blit overlapState) = true ∧ nextWith (said 11 []) (exec .blit refusedState) = true ∧
    (0x1000 : Word) ∉ destBytes (movesRun refusedState.regs .blit) := by decide +kernel

theorem test_witness_Refused :
    phaseBits refusedState.regs ≠ Phase.ready.code ∧ parametersAccepted refusedState.regs .blit ∧
    ¬ AllAdmitted refusedState.platform (movesRun refusedState.regs .blit) ∧
    phaseBits overlapState.regs ≠ Phase.ready.code ∧ parametersAccepted overlapState.regs .blit ∧
    AllAdmitted overlapState.platform (movesRun overlapState.regs .blit) := by
  unfold parametersAccepted blitAccepted
  simp only [allAdmitted_iff]
  decide +kernel

theorem test_witness_SampleRead :
    (admits State.reset.platform 0xFFFFFFFF .r = true ∧ admits State.reset.platform (0xFFFFFFFF + 1) .r = true) ∧
    admits { bgr32Flip := true, refused := [{ base := 0x1003, size := 1, refusesRead := true, refusesWrite := false }] }
      0x1003 .r = false := by decide

theorem test_witness_ReversedRows : 0 < 4 ∧ 3 < 4 ∧
    rowAddr { base := 0x10, stride := 0xFFFFFFF0 } 2 = 0xFFFFFFF0 := by decide

/-! ### Witnesses: session -/

theorem test_witness_Open :
    BoundaryRegisters closedState.platform.bgr32Flip closedState.regs ∧ EnvAnswers closedState ∧
    phaseBits closedState.regs ≠ Phase.ready.code ∧ AnswersOpen closedState 0xC0 0xD0 descriptor ∧
    descriptorError (closedState.regs.ctrl.getLsbD 0) descriptor = none := by
  refine ⟨test_witness_Boundary_closed, rfl, by decide, ?_, by decide +kernel⟩
  unfold AnswersOpen
  decide

/-- Each check of R205 (V-OPEN-4, 5, 6, 7, 8, 9, 10, 11, 12): the premises of a rejected descriptor. -/
theorem test_witness_OpenRejects :
    BoundaryRegisters closedState.platform.bgr32Flip closedState.regs ∧
    AnswersOpen { closedState with env := { goodEnv with getFormatDescriptor := [{ descriptor with frames := 0 }] } } 0xC0 0xD0
      { descriptor with frames := 0 } ∧
    ([ ({ descriptor with frames := 0 }, ErrCode.length), ({ descriptor with frames := 0xFFFFFFFF }, .length),
       ({ descriptor with width := 0 }, .variableFormat), ({ descriptor with fmt := 0 }, .variableFormat),
       ({ descriptor with fpsnum := 0 }, .variableFps), ({ descriptor with fpsden := 0 }, .variableFps),
       ({ descriptor with fpsden := 4294967301 }, .fpsRange), ({ descriptor with fmt := 0x99 }, .unsupportedFormat),
       ({ descriptor with fmt := 0x24 }, .unsupportedFormat) ] : List (Descriptor × ErrCode)).all
      (fun p => decide (descriptorError false p.1 = some p.2)) = true ∧
    closedState.regs.ctrl.getLsbD 0 = false ∧ EnvAnswers closedState ∧ phaseBits closedState.regs ≠ Phase.ready.code := by
  refine ⟨test_witness_Boundary_closed, ?_, by decide +kernel, by decide, rfl, by decide⟩
  unfold AnswersOpen
  decide

/-- V-OPEN-1, 2, 3, and from FAILED as well. -/
theorem test_witness_OpenUnwinds :
    BoundaryRegisters failedState.platform.bgr32Flip failedState.regs ∧ EnvAnswers failedState ∧
    phaseBits failedState.regs ≠ Phase.ready.code ∧
    ({ goodEnv with initializeEngine := [false] } : Environment).initializeEngine.head? = some false ∧
    (goodEnv.initializeEngine.head? = some true ∧
      ({ goodEnv with evaluate := [.err 0xBAD] } : Environment).evaluate.head? = some (.err 0xBAD)) ∧
    goodEnv.evaluate.head? = some (.ok 0xC0) ∧
    ({ goodEnv with getOutputNode := [none] } : Environment).getOutputNode.head? = some none :=
  ⟨test_witness_Boundary_failed, rfl, by decide +kernel, rfl, ⟨rfl, rfl⟩, rfl, rfl⟩

theorem test_witness_GetframeParams :
    phaseBits sessionState.regs = Phase.ready.code ∧ transcoderOf (xselSel sessionState.regs) = some .blit ∧
    transcoderParamsOk sessionState.regs .blit = true ∧ convertParamsOk sessionState.regs = true := by decide +kernel

theorem test_witness_AnswersFrame : AnswersFrame sessionState 0xF0 allocation planes :=
  ⟨rfl, rfl, [], by decide +kernel⟩

/-- With `test_witness_wf_session`, `test_witness_Boundary_session`, `test_witness_EndsWhenAnswered` and
`test_witness_GetframeParams`: every premise of a frame that is converted. -/
theorem test_witness_Getframe : sessionState.mem.wf ∧
    BoundaryRegisters sessionState.platform.bgr32Flip sessionState.regs ∧ EnvAnswers sessionState ∧
    AnswersFrame sessionState 0xF0 allocation planes ∧
    AllAdmitted sessionState.platform (transcoderMoves (frameRegs allocation planes sessionState.regs) .blit) := by
  refine ⟨test_witness_wf_session, test_witness_Boundary_session, rfl, test_witness_AnswersFrame, ?_⟩
  simp only [allAdmitted_iff]
  decide +kernel

/-- The same session on a platform that refuses the buffer's last byte. -/
def refusedSession : State :=
  { sessionState with platform := { bgr32Flip := true, refused := [{ base := 0x8081, size := 1, refusesRead := false,
                                                                     refusesWrite := true }] } }

theorem test_witness_GetframeEMem : refusedSession.mem.wf ∧
    BoundaryRegisters refusedSession.platform.bgr32Flip refusedSession.regs ∧ EnvAnswers refusedSession ∧
    AnswersFrame refusedSession 0xF0 allocation planes ∧
    transcoderOf (xselSel refusedSession.regs) = some .blit ∧ transcoderParamsOk refusedSession.regs .blit = true ∧
    ¬ AllAdmitted refusedSession.platform (transcoderMoves (frameRegs allocation planes refusedSession.regs) .blit) := by
  refine ⟨test_witness_wf_session, test_witness_Boundary_session, rfl, ⟨rfl, rfl, [], by decide +kernel⟩,
    by decide +kernel, by decide +kernel, ?_⟩
  simp only [allAdmitted_iff]
  decide +kernel

/-- V-GF-1: the answers of the two failures. -/
theorem test_witness_GetframeFails :
    ({ goodEnv with getFrame := [none] } : Environment).getFrame.head? = some none ∧
    goodEnv.getFrame.head? = some (some 0xF0) ∧
    ({ goodEnv with allocFrame := [none] } : Environment).allocFrame.head? = some none ∧
    nextWith (said 9 []) (exec (.getframe 5) { sessionState with env := { goodEnv with getFrame := [none] } }) = true := by
  decide +kernel

/-- CLOSE in READY, FAILED and UNINIT, and a second time. -/
theorem test_witness_Close :
    EnvAnswers sessionState ∧ closeCalls sessionState.regs = [.releaseNode 0xD0, .releaseContext 0xC0, .engineRelease] ∧
    closeCalls failedState.regs = [] ∧ nextWith (fun t => decide (t.regs.status = 0)) (exec .close sessionState) = true := by
  refine ⟨rfl, by decide +kernel, by decide +kernel, by decide +kernel⟩

theorem test_witness_Getgeom : phaseBits sessionState.regs = Phase.ready.code ∧
    phaseBits failedState.regs ≠ Phase.ready.code := by decide +kernel

/-- An environment that answers, and one whose OPEN out of reset builds a session. -/
theorem test_witness_OutOfReset : (State.reset.env.stallAt = none ∧ goodEnv.stallAt = none) ∧
    nextWith (fun t => said 0 [] t && decide (t.regs.status = 0x3A)) (exec .openSession { State.reset with env := goodEnv }) =
      true := by decide +kernel

theorem test_witness_Setrate : phaseBits State.reset.regs ≠ Phase.ready.code ∧
    (Asm.setrate (-1) 18446744073709551615 4294967296).wellFormed = true ∧ (Asm.setrate 2 24000 1001).wellFormed = true := by
  decide

end Sys2Proof.Tests
end

section
/-! The state after reset (spec/10_state.md section 6, R49): what a register of 0 says of the fields it holds, and with
that what every register being 0 says of the machine. -/

namespace Sys2Proof.Machine

/-- Every field of a register that holds 0 is 0. -/
@[simp] theorem bits_zero (lo n : Nat) : bits 0#32 lo n = 0#n := BitVec.extractLsb'_zero

/-- In the register file of R49 every register reads 0. -/
@[simp] theorem RegFile.get_zero (r : Reg) : RegFile.zero.get r = 0 := by cases r <;> rfl

@[simp] theorem State.reset_regs : State.reset.regs = RegFile.zero := rfl

@[simp] theorem State.reset_trace : State.reset.trace = [] := rfl

@[simp] theorem State.reset_responses : State.reset.responses = [] := rfl

/-- `STATUS` = 0: no session, nothing held, no error (R25, R43). -/
theorem statusFields_of_status_eq_zero (f : RegFile) (h : f.status = 0) :
    phaseBits f = Phase.uninit.code ∧ haveEngine f = false ∧ haveCtx f = false ∧ haveNode f = false ∧
      haveFrame f = false ∧ errBits f = 0 := by
  simp [phaseBits, haveEngine, haveCtx, haveNode, haveFrame, errBits, Phase.code, h]

/-- `CTRL` = 0: neither NATIVE nor STACKED_REQ is set (R23). -/
theorem ctrlBits_of_ctrl_eq_zero (f : RegFile) (h : f.ctrl = 0) :
    f.ctrl.getLsbD 0 = false ∧ f.ctrl.getLsbD 1 = false := by
  simp [h]

/-- `XSEL` = 0: the selected transcoder is BLIT, without flip (R37). -/
theorem xselFields_of_xsel_eq_zero (f : RegFile) (h : f.xsel = 0) :
    transcoderOf (xselSel f) = some .blit ∧ xselFlip f = false := by
  simp [transcoderOf, xselSel, xselFlip, h]

/-- Settles O14: each field claim follows from the one register that holds the field being 0. -/
theorem resetLeavesEveryRegisterZero : Obligations.ResetLeavesEveryRegisterZero := by
  unfold Obligations.ResetLeavesEveryRegisterZero
  have hzero : ∀ r : Reg, State.reset.regs.get r = 0 := by simp
  obtain ⟨hnative, hstacked⟩ := ctrlBits_of_ctrl_eq_zero State.reset.regs (hzero .ctrl)
  obtain ⟨hphase, hengine, hctx, hnode, hframe, herr⟩ :=
    statusFields_of_status_eq_zero State.reset.regs (hzero .status)
  obtain ⟨hblit, hflip⟩ := xselFields_of_xsel_eq_zero State.reset.regs (hzero .xsel)
  have hformat : consumerOf State.reset.regs.cFmt = some .unsupported :=
    (consumerOf_eq_some _ .unsupported).mpr (hzero .cFmt).symm
  have hpmode : State.reset.regs.pmode = PackingMode.native.code := hzero .pmode
  have hplatform : ∀ s : State, (platformReset s).mem = s.mem ∧ (platformReset s).regs = State.reset.regs :=
    fun s => ⟨platformReset_mem s, platformReset_regs s⟩
  exact ⟨hzero, State.reset_trace, State.reset_responses, hphase, hengine, hctx, hnode, hframe, herr, hnative, hstacked,
    hformat, hpmode, hblit, hflip, hplatform⟩

end Sys2Proof.Machine
end

section
/-! Words and their fields (spec/30_encoding.md R90, R91, R94, R95): a word is its four fields, a word decodes exactly when it
is the word of a command, and that is what the mask and match columns of R91 test. -/

namespace Sys2Proof

/-! ### The fields of a word (R90) -/

/-- A concatenation as a number: the upper part is shifted by the width of the lower one. -/
theorem toNat_append_eq_add {m n : Nat} (x : BitVec m) (y : BitVec n) :
    (x ++ y).toNat = x.toNat * 2 ^ n + y.toNat := by
  rw [BitVec.toNat_append, ← Nat.shiftLeft_add_eq_or_of_lt y.isLt, Nat.shiftLeft_eq]

theorem toNat_joinFields (f : Fields) : (joinFields f).toNat =
    f.op.toNat * 2 ^ 56 + f.ra.toNat * 2 ^ 48 + f.rsv.toNat * 2 ^ 32 + f.imm.toNat := by
  simp only [joinFields, toNat_append_eq_add]
  omega

@[simp] theorem joinFields_fieldsOf (w : CommandWord) : joinFields (fieldsOf w) = w := by
  have hw := w.isLt
  apply BitVec.eq_of_toNat_eq
  rw [toNat_joinFields]
  simp only [fieldsOf, BitVec.extractLsb'_toNat, Nat.shiftRight_eq_div_pow]
  omega

theorem fieldsOf_inj {v w : CommandWord} : fieldsOf v = fieldsOf w ↔ v = w :=
  (Function.LeftInverse.injective joinFields_fieldsOf).eq_iff

/-- The bitwise and of two words is taken field by field. -/
theorem fieldsOf_and (v w : CommandWord) : fieldsOf (v &&& w) =
    { op := (fieldsOf v).op &&& (fieldsOf w).op, ra := (fieldsOf v).ra &&& (fieldsOf w).ra,
      rsv := (fieldsOf v).rsv &&& (fieldsOf w).rsv, imm := (fieldsOf v).imm &&& (fieldsOf w).imm } := by
  simp only [fieldsOf, BitVec.extractLsb'_and]

/-! ### Which words decode (R94) -/

/-- A word decodes to a command exactly when it is the word of that command. -/
theorem decode_eq_ok_iff (w : CommandWord) (i : Instr) : decode w = .ok i ↔ w = encode i := by
  rw [decode, decodeFields_ok, ← fieldsOf_inj, encode, fieldsOf_joinFields]

theorem fieldsOf_of_decode {w : CommandWord} {i : Instr} (h : decode w = .ok i) : fieldsOf w = encodeFields i := by
  rw [(decode_eq_ok_iff w i).mp h, encode, fieldsOf_joinFields]

/-- The fields that make a word a command of opcode `o` (R94): the opcode's number, and 0 wherever the format of `o` has no
operand. -/
def FieldsOfOpcode (o : Opcode) (f : Fields) : Prop :=
  f.op = o.number ∧ (o.format.usesRa = false → f.ra = 0) ∧ f.rsv = 0 ∧ (o.format.usesImm = false → f.imm = 0)

theorem opcode_buildInstr (ra : BitVec 8) (imm : Word) (o : Opcode) : (buildInstr ra imm o).opcode = o := by
  cases o <;> rfl

/-- A field the format does not use is 0 in the word of a command. -/
theorem fieldsOfOpcode_encodeFields (i : Instr) : FieldsOfOpcode i.opcode (encodeFields i) := by
  refine ⟨rfl, ?_, rfl, ?_⟩
  · cases i with
    | setr | rdr => exact fun h => Bool.noConfusion h
    | _ => exact fun _ => rfl
  · cases i with
    | setr | getframe => exact fun h => Bool.noConfusion h
    | _ => exact fun _ => rfl

theorem decodeFields_of_fieldsOfOpcode {o : Opcode} {f : Fields} (h : FieldsOfOpcode o f) :
    decodeFields f = .ok (buildInstr f.ra f.imm o) := by
  obtain ⟨hop, hra, hrsv, himm⟩ := h
  have hra' : ¬ (o.format.usesRa = false ∧ f.ra ≠ 0) := fun hc => hc.2 (hra hc.1)
  have himm' : ¬ (o.format.usesImm = false ∧ f.imm ≠ 0) := fun hc => hc.2 (himm hc.1)
  simp only [decodeFields, (opcodeOf_eq_some f.op o).mpr hop.symm]
  rw [if_neg (not_not.mpr hrsv), if_neg hra', if_neg himm']

theorem exists_decode_iff_fieldsOfOpcode (w : CommandWord) (o : Opcode) :
    (∃ i, decode w = .ok i ∧ i.opcode = o) ↔ FieldsOfOpcode o (fieldsOf w) := by
  constructor
  · rintro ⟨i, hi, rfl⟩
    rw [fieldsOf_of_decode hi]
    exact fieldsOfOpcode_encodeFields i
  · intro h
    exact ⟨_, decodeFields_of_fieldsOfOpcode h, opcode_buildInstr _ _ o⟩

/-! ### Mask and match (R91) -/

/-- A mask covers `OP` and `RSV` always, and `RA` and `IMM` where the format does not use them. -/
theorem fieldsOf_mask (fmt : Format) : fieldsOf fmt.mask =
    { op := BitVec.allOnes 8, ra := if fmt.usesRa then 0 else BitVec.allOnes 8, rsv := BitVec.allOnes 16,
      imm := if fmt.usesImm then 0 else BitVec.allOnes 32 } := by
  cases fmt <;> decide

theorem fieldsOf_matchWord (o : Opcode) : fieldsOf o.matchWord = { op := o.number, ra := 0, rsv := 0, imm := 0 } := by
  cases o <;> decide

/-- A field under its part of a mask is 0 exactly when the field is 0 or not covered. -/
theorem and_ite_allOnes_eq_zero {n : Nat} (x : BitVec n) (b : Bool) :
    (x &&& if b then 0 else BitVec.allOnes n) = 0 ↔ (b = false → x = 0) := by
  cases b <;> simp

theorem and_mask_eq_matchWord_iff (w : CommandWord) (o : Opcode) :
    w &&& o.format.mask = o.matchWord ↔ FieldsOfOpcode o (fieldsOf w) := by
  rw [← fieldsOf_inj, fieldsOf_and, fieldsOf_mask, fieldsOf_matchWord]
  simp only [Fields.mk.injEq, and_ite_allOnes_eq_zero, BitVec.and_allOnes, FieldsOfOpcode]

/-! ### The statements -/

/-- Settles O3: by the value of a concatenation, and by the fields of the word of a command. -/
theorem wordIsTheSumOfItsFields : Obligations.WordIsTheSumOfItsFields := by
  unfold Obligations.WordIsTheSumOfItsFields
  refine ⟨joinFields_fieldsOf, toNat_joinFields, fun w i h => ?_⟩
  exact congrArg Fields.rsv (fieldsOf_of_decode h)

/-- Settles O4: mask and match, and decoding, ask the same of the four fields. -/
theorem maskAndMatchDecideTheCommand : Obligations.MaskAndMatchDecideTheCommand := by
  unfold Obligations.MaskAndMatchDecideTheCommand
  refine ⟨fun o => by cases o <;> rfl, rfl, rfl, rfl, rfl, fun w o => ?_⟩
  rw [exists_decode_iff_fieldsOfOpcode]
  exact and_mask_eq_matchWord_iff w o

end Sys2Proof
end

section
/-! One step, by what its word decodes to (spec/30_encoding.md R95, R96): an illegal word is answered and changes nothing, a
legal one is executed. -/

namespace Sys2Proof.Machine

open Sys2Proof.Claims

theorem step_of_illegal {s : State} {w : CommandWord} {e : Illegal} (hw : fetchWord s = some w)
    (hd : decode w = .error e) : step s = .next (advance (raise .illegalCmd s)) := by
  simp only [step, hw, stepWord, hd, stepEnd]

theorem step_of_legal {s : State} {w : CommandWord} {i : Instr} (hw : fetchWord s = some w) (hd : decode w = .ok i) :
    step s = stepEnd (exec i s) := by
  simp only [step, hw, stepWord, hd]

theorem stepEnd_eq_next (r : Host.Outcome State Fault Refusal) (t : State) :
    stepEnd r = .next t ↔ ∃ u, r = .next u ∧ t = advance u := by
  cases r <;> simp [stepEnd, eq_comm]

/-- A legal word whose command raises an error at once: the response, the index, and nothing else. -/
theorem step_of_exec_raise {s : State} {w : CommandWord} {i : Instr} {e : ErrCode} (hw : fetchWord s = some w)
    (hd : decode w = .ok i) (he : exec i s = .next (raise e s)) :
    step s = .next { answered e.code [] s with index := s.index + 1 } := by
  rw [step_of_legal hw hd, he]
  rfl

theorem answeredIllegal_of_decode_error {w : CommandWord} {e : Illegal} (hd : decode w = .error e) : AnsweredIllegal w :=
  fun _ hw => step_of_illegal hw hd

/-- NOP's one word is 0 (R93). -/
theorem decode_eq_nop_iff (w : CommandWord) : decode w = .ok .nop ↔ w = 0 := by
  have hnop : encode .nop = 0 := by decide
  rw [decode_eq_ok_iff, hnop]

theorem exists_decode_error_of_unassigned {w : CommandWord} (h : ∀ o : Opcode, o.number ≠ w.extractLsb' 56 8) :
    ∃ e, decode w = .error e := by
  cases hd : decode w with
  | error e => exact ⟨e, rfl⟩
  | ok i => exact absurd (congrArg Fields.op (fieldsOf_of_decode hd)).symm (h i.opcode)

/-- Settles O6: the step on a word that does not decode, and which words those are. -/
theorem illegalWordsAreOnlyAnswered : Obligations.IllegalWordsAreOnlyAnswered := by
  unfold Obligations.IllegalWordsAreOnlyAnswered
  exact ⟨fun _ _ => answeredIllegal_of_decode_error, decode_eq_nop_iff, fun _ => exists_decode_error_of_unassigned⟩

end Sys2Proof.Machine
end

section
/-! The checks of a command and the response it ends with (spec/30_encoding.md R96 to R98): a command that a check refuses
raises that check's error and does nothing else; one that passes its checks answers its data or an error of its own, 1 to 11
(60_exceptions.md R230). -/

namespace Sys2Proof.Machine

open Sys2Proof.Claims

/-! ### The checks as the model makes them -/

theorem ErrCode.code_toNat_pos (e : ErrCode) : 0 < e.code.toNat := by cases e <;> decide

theorem ErrCode.code_toNat_le (e : ErrCode) : e.code.toNat ≤ 15 := by cases e <;> decide

theorem Phase.code_injective : Function.Injective Phase.code := by
  intro p q
  cases p <;> cases q <;> decide

/-- A session is open exactly in the phase READY (10_state.md R41). -/
theorem inSession_of_phaseBits {f : RegFile} {p : Phase} (h : phaseBits f = p.code) :
    inSession f = decide (p = .ready) := by
  simp only [inSession, h, beq_eq_decide, Phase.code_injective.eq_iff]

/-- Every state is in session or not, so one of the phases of the table speaks for it. -/
theorem exists_phase_of_inSession (f : RegFile) : ∃ p : Phase, inSession f = decide (p = .ready) := by
  cases h : inSession f with
  | true => exact ⟨.ready, rfl⟩
  | false => exact ⟨.uninit, rfl⟩

theorem regOfIndex_eq_some (ra : BitVec 8) (r : Reg) : regOfIndex ra = some r ↔ regIndex r = ra := by
  constructor
  · exact regIndex_of_regOfIndex ra r
  · rintro rfl
    exact regOfIndex_regIndex r

theorem blitAccepted_iff (f : RegFile) : blitAccepted f ↔ blitParamsOk f = true := (blitParamsOk_iff f).symm

theorem stackAccepted_iff (f : RegFile) : stackAccepted f ↔ stackParamsOk f = true := (stackParamsOk_iff f).symm

theorem bgrAccepted_iff (f : RegFile) : bgrAccepted f ↔ bgrParamsOk f = true := (bgrParamsOk_iff f).symm

theorem convertAccepted_iff (f : RegFile) : convertAccepted f ↔ convertParamsOk f = true := by
  rw [convertParamsOk_iff, ← blitAccepted_iff, ← stackAccepted_iff, ← bgrAccepted_iff]
  rfl

theorem whenIdle_of_inSession {s : State} (h : inSession s.regs = true) (k : State → State) :
    whenIdle s k = .next (raise .state s) := if_pos h

theorem whenIdle_of_not_inSession {s : State} (h : inSession s.regs = false) (k : State → State) :
    whenIdle s k = .next (k s) := if_neg (by simp [h])

/-! ### ConvertBody by its parameter check (43_transcoders.md R171, R185) -/

theorem convertBody_of_refused {s : State} (h : convertParamsOk s.regs = false) : convertBody s = (some .param, s) := by
  unfold convertParamsOk at h
  unfold convertBody
  cases htr : transcoderOf (xselSel s.regs) with
  | none => rfl
  | some tr =>
    rw [htr, Option.any_some] at h
    cases tr with
    | blit | stack | bgrpack => exact if_neg (Bool.not_eq_true _ ▸ h)

theorem convertBody_of_accepted {s : State} (h : convertParamsOk s.regs = true) :
    ∃ tr, convertBody s = transfer (transcoderMoves s.regs tr) s := by
  unfold convertParamsOk at h
  unfold convertBody
  cases htr : transcoderOf (xselSel s.regs) with
  | none => rw [htr] at h; cases h
  | some tr =>
    rw [htr, Option.any_some] at h
    refine ⟨tr, ?_⟩
    cases tr with
    | blit | stack | bgrpack => exact if_pos h

/-! ### A check that refuses (R96, R97) -/

section Refused

variable {i : Instr} {s : State} {p : Phase}

/-- R97: where the table says `E_STATE` the command raises it and does nothing else. -/
theorem exec_of_phase_refused (hp : inSession s.regs = decide (p = .ready)) (h : phaseAccepts i.opcode p = false) :
    exec i s = .next (raise .state s) := by
  cases i with
  | nop | rdr | close => cases h
  | getgeom | getframe =>
    have hout : inSession s.regs = false := hp.trans h
    exact if_neg (by simp [hout])
  | openSession =>
    have hin : inSession s.regs = true := hp.trans (decide_eq_true (not_not.mp (of_decide_eq_false h)))
    exact if_pos hin
  | setr | map | resolve | select | blit | stack | bgrpack | convert =>
    unfold exec
    exact whenIdle_of_inSession (hp.trans (decide_eq_true (not_not.mp (of_decide_eq_false h)))) _

/-- A command of the idle phases that the table accepts finds no session. -/
theorem not_inSession_of_accepted (hp : inSession s.regs = decide (p = .ready)) (h : decide (p ≠ .ready) = true) :
    inSession s.regs = false :=
  hp.trans (decide_eq_false (of_decide_eq_true h))

/-- Check (3) of R96: SETR and RDR raise `E_REG` on an index they do not accept. -/
theorem exec_of_register_refused (hp : inSession s.regs = decide (p = .ready)) (h : phaseAccepts i.opcode p = true)
    (hr : ¬ registerAccepted i) : exec i s = .next (raise .reg s) := by
  cases i with
  | setr ra imm =>
    rw [exec, execSetr, whenIdle_of_not_inSession (not_inSession_of_accepted hp h)]
    cases hreg : regOfIndex ra with
    | none => rfl
    | some r =>
      have hro : ¬ hostWritable r = true := fun hwr => hr ⟨r, (regOfIndex_eq_some ra r).mp hreg, hwr⟩
      simp only [if_neg hro]
  | rdr ra =>
    cases hreg : regOfIndex ra with
    | none => simp only [exec, execRdr, hreg]
    | some r => exact absurd ⟨r, (regOfIndex_eq_some ra r).mp hreg⟩ hr
  | _ => exact absurd trivial hr

/-- Check (4) of R96: the transcoder commands and GETFRAME raise `E_PARAM` before any access and any call. -/
theorem exec_of_parameters_refused (hp : inSession s.regs = decide (p = .ready)) (h : phaseAccepts i.opcode p = true)
    (hr : ¬ parametersAccepted s.regs i) : exec i s = .next (raise .param s) := by
  cases i with
  | blit =>
    rw [exec, execBlit, whenIdle_of_not_inSession (not_inSession_of_accepted hp h),
      if_neg fun hok => hr ((blitAccepted_iff _).mpr hok)]
  | stack =>
    rw [exec, execStack, whenIdle_of_not_inSession (not_inSession_of_accepted hp h),
      if_neg fun hok => hr ((stackAccepted_iff _).mpr hok)]
  | bgrpack =>
    rw [exec, execBgrpack, whenIdle_of_not_inSession (not_inSession_of_accepted hp h),
      if_neg fun hok => hr ((bgrAccepted_iff _).mpr hok)]
  | convert =>
    rw [exec, execConvert, whenIdle_of_not_inSession (not_inSession_of_accepted hp h),
      convertBody_of_refused (Bool.eq_false_iff.mpr fun hok => hr ((convertAccepted_iff _).mpr hok)), endTransfer]
  | getframe n =>
    have hin : inSession s.regs = true := hp.trans h
    exact (if_pos hin).trans (if_neg fun hok => hr ((convertAccepted_iff _).mpr hok))
  | _ => exact absurd trivial hr

end Refused

/-! ### The response of a command that passes its checks (R98) -/

/-- One response is appended: success with `data`, or one of the errors 1 to 11 with none. -/
def AnswersOrFails (s t : State) (data : List Word) : Prop :=
  t.responses = s.responses ++ [{ code := 0, data := data }] ∨
    ∃ e : ErrCode, e.code.toNat ≤ 11 ∧ t.responses = s.responses ++ [{ code := e.code, data := [] }]

/-- A success after work that answered nothing. -/
theorem answersOrFails_respondOk {s u : State} (hu : u.responses = s.responses) (data : List Word) :
    AnswersOrFails s (respondOk data u) data :=
  Or.inl (by rw [respondOk_responses, hu])

/-- An error 1 to 11 after work that answered nothing. -/
theorem answersOrFails_raise {s u : State} {e : ErrCode} (hu : u.responses = s.responses) (he : e.code.toNat ≤ 11)
    (data : List Word) : AnswersOrFails s (raise e u) data :=
  Or.inr ⟨e, he, by rw [raise_responses, hu]⟩

/-- The one error a transcoder body has is `E_MEM` (60_exceptions.md R233). -/
theorem transfer_fst_cases (ms : List Move) (s : State) : (transfer ms s).1 = none ∨ (transfer ms s).1 = some .mem := by
  rw [transfer_fst]
  split
  · exact Or.inl rfl
  · exact Or.inr rfl

/-- `ConvertBody` with its parameters accepted: success or `E_MEM`, and no response yet (43_transcoders.md R185). -/
theorem convertBody_result {s : State} (h : convertParamsOk s.regs = true) :
    ∃ r u, convertBody s = (r, u) ∧ (r = none ∨ r = some .mem) ∧ u.responses = s.responses := by
  obtain ⟨tr, htr⟩ := convertBody_of_accepted h
  exact ⟨_, _, htr, transfer_fst_cases _ s, transfer_responses _ s⟩

theorem answersOrFails_endTransfer {s u : State} {r : Option ErrCode} (hr : r = none ∨ r = some .mem)
    (hu : u.responses = s.responses) : AnswersOrFails s (endTransfer (r, u)) [] := by
  rcases hr with rfl | rfl
  · exact answersOrFails_respondOk hu []
  · exact answersOrFails_raise hu (by decide) []

theorem answersOrFails_transfer (ms : List Move) (s : State) : AnswersOrFails s (endTransfer (transfer ms s)) [] :=
  answersOrFails_endTransfer (transfer_fst_cases ms s) (transfer_responses ms s)

/-! ### OPEN and CLOSE -/

/-- The errors of `Validate` are 4 to 8 (44_session.md R205). -/
theorem validate_error_le {f g : RegFile} {e : ErrCode} (h : validate f = (some e, g)) : e.code.toNat ≤ 8 := by
  simp only [validate] at h
  split_ifs at h
  all_goals cases h
  all_goals decide

/-- `Acquire` answers nothing itself, and the errors it hands on are 1 to 3 (R202). -/
theorem acquire_result (s : State) :
    (∃ e u, acquire s = .error (e, u) ∧ e.code.toNat ≤ 3 ∧ u.responses = s.responses) ∨
      ∃ u, acquire s = .ok u ∧ u.responses = s.responses := by
  rcases acquire_cases s with ⟨_, h, _⟩ | ⟨_, _, h, _⟩ | ⟨_, _, h, _⟩ | ⟨_, _, _, h, _⟩
  · exact .inl ⟨_, _, h, by decide, rfl⟩
  · exact .inl ⟨_, _, h, by decide, rfl⟩
  · exact .inl ⟨_, _, h, by decide, rfl⟩
  · exact .inr ⟨_, h, rfl⟩

@[simp] theorem loadDescriptor_responses (s : State) : (loadDescriptor s).responses = s.responses := by
  obtain ⟨_, _, h, _⟩ := loadDescriptor_cases s
  rw [h, afterEvents_responses]

theorem answersOrFails_failOpen {s u : State} {e : ErrCode} (hu : u.responses = s.responses) (he : e.code.toNat ≤ 11) :
    AnswersOrFails s (failOpen e u) [] := by
  rw [failOpen_eq]
  exact answersOrFails_raise (by rw [afterEvents_responses, hu]) he []

/-- OPEN ends with success or with an error of `Acquire` or `Validate` (R201). -/
theorem answersOrFails_openBody (s : State) : AnswersOrFails s (openBody s) [] := by
  unfold openBody
  rcases acquire_result (onRegs clearForOpen s) with ⟨e, u, ha, he, hu⟩ | ⟨u, ha, hu⟩
  · rw [ha]
    exact answersOrFails_failOpen hu (by omega)
  · have hload : (loadDescriptor u).responses = s.responses := by
      rw [loadDescriptor_responses, hu, onRegs_responses]
    rw [ha]
    simp only
    generalize hv : validate (loadDescriptor u).regs = r
    obtain ⟨_ | e, f⟩ := r
    · exact answersOrFails_respondOk hload []
    · have he := validate_error_le hv
      exact answersOrFails_failOpen hload (by omega)

theorem answersOrFails_closeBody (s : State) : AnswersOrFails s (closeBody s) [] := by
  unfold closeBody
  rw [closeReleases_eq]
  exact answersOrFails_respondOk rfl []

/-! ### GETFRAME: what it loads does not touch the registers the parameter check reads -/

@[simp] theorem convertParamsOk_setPhase (p : Phase) (f : RegFile) :
    convertParamsOk (setPhase p f) = convertParamsOk f := rfl

@[simp] theorem convertParamsOk_holdFrame (fr : Word) (f : RegFile) :
    convertParamsOk (setHaveFrame true { f with frameH := fr }) = convertParamsOk f := rfl

@[simp] theorem convertParamsOk_setSrcPlane (f : RegFile) (p : Plane) (v : PlaneRef) :
    convertParamsOk (setSrcPlane f p v) = convertParamsOk f := by fin_cases p <;> rfl

@[simp] theorem convertParamsOk_setDstPlane (f : RegFile) (p : Plane) (v : PlaneRef) :
    convertParamsOk (setDstPlane f p v) = convertParamsOk f := by fin_cases p <;> rfl

@[simp] theorem convertParamsOk_storeAllocation (al : Allocation) (f : RegFile) :
    convertParamsOk (storeAllocation al f) = convertParamsOk f := by
  have hplanes : ∀ (ps : List Plane) (g : RegFile),
      convertParamsOk (ps.foldl (fun g p => setDstPlane g p (allocationPlane al p)) g) = convertParamsOk g := by
    intro ps
    induction ps with
    | nil => exact fun _ => rfl
    | cons p ps ih => exact fun g => (ih _).trans (convertParamsOk_setDstPlane g p _)
  exact hplanes _ { f with dstH := al.dst }

/-- Fetching planes appends no response and keeps the parameter check. -/
theorem foldl_fetchPlane_keeps (ps : List Plane) (s : State) :
    (ps.foldl fetchPlane s).responses = s.responses ∧
      convertParamsOk (ps.foldl fetchPlane s).regs = convertParamsOk s.regs := by
  induction ps generalizing s with
  | nil => exact ⟨rfl, rfl⟩
  | cons p ps ih =>
    obtain ⟨hresp, hok⟩ := ih (fetchPlane s p)
    exact ⟨hresp, hok.trans (convertParamsOk_setSrcPlane s.regs p _)⟩

@[simp] theorem fetchPlanes_responses (s : State) : (fetchPlanes s).responses = s.responses := (foldl_fetchPlane_keeps _ s).1

@[simp] theorem convertParamsOk_fetchPlanes (s : State) : convertParamsOk (fetchPlanes s).regs = convertParamsOk s.regs :=
  (foldl_fetchPlane_keeps _ s).2

/-- The parameters accepted before the calls are still accepted where GETFRAME converts (R210). -/
theorem convertParamsOk_loaded (al : Allocation) {s : State} (hok : convertParamsOk s.regs = true) :
    convertParamsOk (onRegs (setPhase .converting) (fetchPlanes (onRegs (storeAllocation al) s))).regs = true := by
  rw [onRegs_regs, convertParamsOk_setPhase, convertParamsOk_fetchPlanes, onRegs_regs, convertParamsOk_storeAllocation]
  exact hok

/-- GETFRAME with its parameters accepted ends with the buffer's handle, or with `E_FETCH`, `E_ALLOC` or `E_MEM` (44_session.md
R210). -/
theorem answersOrFails_getframeBody (n : Word) {s : State} (hok : convertParamsOk s.regs = true) :
    AnswersOrFails s (getframeBody n s) [(getframeBody n s).regs.dstH] := by
  unfold getframeBody
  simp only
  split
  next u hcall =>
    have hu : u = (callGetFrame _ n _).2 := congrArg Prod.snd hcall.symm
    exact answersOrFails_raise (by rw [hu]; rfl) (by decide) _
  next fr u hcall =>
    have hu : u = (callGetFrame _ n _).2 := congrArg Prod.snd hcall.symm
    split
    next v hcall' =>
      have hv : v = (callAllocFrame _ _ _ _).2 := congrArg Prod.snd hcall'.symm
      exact answersOrFails_raise (by rw [hv, hu]; rfl) (by decide) _
    next al v hcall' =>
      have hv : v = (callAllocFrame _ _ _ _).2 := congrArg Prod.snd hcall'.symm
      have hvresp : v.responses = s.responses := by rw [hv, hu]; rfl
      have hvok : convertParamsOk v.regs = true := by
        rw [hv, callAllocFrame_regs, onRegs_regs, convertParamsOk_holdFrame, hu, callGetFrame_regs, onRegs_regs,
          convertParamsOk_setPhase]
        exact hok
      obtain ⟨e, x, hconv, he, hx⟩ := convertBody_result (convertParamsOk_loaded al hvok)
      have hxresp : x.responses = s.responses := by
        rw [hx, onRegs_responses, fetchPlanes_responses, onRegs_responses, hvresp]
      rw [hconv]
      rcases he with rfl | rfl
      · exact answersOrFails_respondOk hxresp _
      · exact answersOrFails_raise hxresp (by decide) _

/-! ### Every command -/

/-- The data of a success (R98): the register's value, the six words of the geometry, the buffer's handle, or none. -/
def SuccessData (i : Instr) (s t : State) (data : List Word) : Prop :=
  match i with
  | .rdr ra => ∃ reg, regIndex reg = ra ∧ data = [s.regs.get reg]
  | .getgeom => data = [s.regs.cWidth, s.regs.cHeight, s.regs.cFrames, s.regs.cFpsnum, s.regs.cFpsden, s.regs.cFmt]
  | .getframe _ => data = [t.regs.dstH]
  | _ => data = []

/-- A command that passes its checks and ends answers its data, or an error 1 to 11. -/
theorem exec_of_checks_passed {i : Instr} {s t : State} {p : Phase} (hp : inSession s.regs = decide (p = .ready))
    (h : phaseAccepts i.opcode p = true) (hreg : registerAccepted i) (hparams : parametersAccepted s.regs i)
    (ht : exec i s = .next t) : ∃ data, SuccessData i s t data ∧ AnswersOrFails s t data := by
  cases i with
  | nop =>
    cases ht
    exact ⟨_, rfl, answersOrFails_respondOk rfl _⟩
  | setr ra imm =>
    obtain ⟨r, hr, hwr⟩ := hreg
    rw [exec, execSetr, whenIdle_of_not_inSession (not_inSession_of_accepted hp h), (regOfIndex_eq_some ra r).mpr hr] at ht
    simp only [if_pos hwr] at ht
    cases ht
    exact ⟨_, rfl, answersOrFails_respondOk rfl _⟩
  | rdr ra =>
    obtain ⟨r, hr⟩ := hreg
    rw [exec, execRdr, (regOfIndex_eq_some ra r).mpr hr] at ht
    cases ht
    exact ⟨_, ⟨r, hr, rfl⟩, answersOrFails_respondOk rfl _⟩
  | openSession =>
    have hout := not_inSession_of_accepted hp h
    rw [exec, execOpenSession, if_neg (by simp [hout]), afterCalls_eq_next] at ht
    obtain ⟨rfl, -⟩ := ht
    exact ⟨_, rfl, answersOrFails_openBody s⟩
  | getgeom =>
    rw [exec, execGetgeom, if_pos (hp.trans h)] at ht
    cases ht
    exact ⟨_, rfl, answersOrFails_respondOk rfl _⟩
  | getframe n =>
    have hok := (convertAccepted_iff _).mp hparams
    rw [exec, execGetframe, if_pos (hp.trans h), if_pos hok, afterCalls_eq_next] at ht
    obtain ⟨rfl, -⟩ := ht
    exact ⟨_, rfl, answersOrFails_getframeBody n hok⟩
  | close =>
    rw [exec, execClose, afterCalls_eq_next] at ht
    obtain ⟨rfl, -⟩ := ht
    exact ⟨_, rfl, answersOrFails_closeBody s⟩
  | map | resolve | select =>
    unfold exec at ht
    cases (whenIdle_of_not_inSession (not_inSession_of_accepted hp h) _).symm.trans ht
    exact ⟨_, rfl, answersOrFails_respondOk rfl _⟩
  | blit =>
    rw [exec, execBlit, whenIdle_of_not_inSession (not_inSession_of_accepted hp h),
      if_pos ((blitAccepted_iff _).mp hparams)] at ht
    cases ht
    exact ⟨_, rfl, answersOrFails_transfer _ s⟩
  | stack =>
    rw [exec, execStack, whenIdle_of_not_inSession (not_inSession_of_accepted hp h),
      if_pos ((stackAccepted_iff _).mp hparams)] at ht
    cases ht
    exact ⟨_, rfl, answersOrFails_transfer _ s⟩
  | bgrpack =>
    rw [exec, execBgrpack, whenIdle_of_not_inSession (not_inSession_of_accepted hp h),
      if_pos ((bgrAccepted_iff _).mp hparams)] at ht
    cases ht
    exact ⟨_, rfl, answersOrFails_transfer _ s⟩
  | convert =>
    obtain ⟨r, u, hconv, hr, hu⟩ := convertBody_result ((convertAccepted_iff _).mp hparams)
    rw [exec, execConvert, whenIdle_of_not_inSession (not_inSession_of_accepted hp h), hconv] at ht
    cases ht
    exact ⟨_, rfl, answersOrFails_endTransfer hr hu⟩

/-- A command that passes its checks ends with no error of theirs. -/
theorem AnswersOrFails.exists_response {s t : State} {data : List Word} (h : AnswersOrFails s t data) :
    ∃ r, t.responses = s.responses ++ [r] ∧ r.code.toNat ≤ 11 := by
  rcases h with h | ⟨e, he, h⟩
  · exact ⟨_, h, Nat.zero_le _⟩
  · exact ⟨_, h, he⟩

/-- Everything a command that ends can do, by the first of R96's checks that refuses it. -/
theorem exec_cases {i : Instr} {s t : State} {p : Phase} (hp : inSession s.regs = decide (p = .ready))
    (ht : exec i s = .next t) :
    (phaseAccepts i.opcode p = false ∧ t = raise .state s) ∨ t = raise .reg s ∨ t = raise .param s ∨
      ∃ data, SuccessData i s t data ∧ AnswersOrFails s t data := by
  by_cases hphase : phaseAccepts i.opcode p = true
  · by_cases hreg : registerAccepted i
    · by_cases hparams : parametersAccepted s.regs i
      · exact .inr (.inr (.inr (exec_of_checks_passed hp hphase hreg hparams ht)))
      · exact .inr (.inr (.inl (Host.Outcome.next.inj (ht.symm.trans (exec_of_parameters_refused hp hphase hparams)))))
    · exact .inr (.inl (Host.Outcome.next.inj (ht.symm.trans (exec_of_register_refused hp hphase hreg))))
  · have hphase' := Bool.eq_false_iff.mpr hphase
    exact .inl ⟨hphase', Host.Outcome.next.inj (ht.symm.trans (exec_of_phase_refused hp hphase'))⟩

/-! ### The statements -/

/-- Settles O9: the decoder's answer on an illegal word, then the three checks of the command, then what passes them. -/
theorem checksComeInOrder : Obligations.ChecksComeInOrder := by
  unfold Obligations.ChecksComeInOrder
  intro s w hw
  refine ⟨fun e hd => step_of_illegal hw hd, fun i p hd hbits _ => ?_⟩
  have hp := inSession_of_phaseBits hbits
  refine ⟨fun h => ?_, fun h hreg => ?_, fun h _ hparams => ?_, fun h hreg hparams t ht => ?_⟩
  · exact step_of_exec_raise hw hd (exec_of_phase_refused hp h)
  · exact step_of_exec_raise hw hd (exec_of_register_refused hp h hreg)
  · exact step_of_exec_raise hw hd (exec_of_parameters_refused hp h hparams)
  · rw [step_of_legal hw hd, stepEnd_eq_next] at ht
    obtain ⟨u, hu, rfl⟩ := ht
    obtain ⟨_, _, hend⟩ := exec_of_checks_passed hp h hreg hparams hu
    exact hend.exists_response

/-- Settles O10: the phase check refuses by the table, and no other answer has the code 12. -/
theorem phaseTableDecidesStateErrors : Obligations.PhaseTableDecidesStateErrors := by
  unfold Obligations.PhaseTableDecidesStateErrors
  intro s i p hbits _
  have hp := inSession_of_phaseBits hbits
  refine ⟨exec_of_phase_refused hp, fun h t ht => ?_⟩
  rcases exec_cases hp ht with ⟨h', -⟩ | rfl | rfl | ⟨_, -, hend⟩
  · rw [h] at h'
    cases h'
  · exact ⟨_, raise_responses .reg s, by decide⟩
  · exact ⟨_, raise_responses .param s, by decide⟩
  · obtain ⟨r, hr, hle⟩ := hend.exists_response
    refine ⟨r, hr, fun h12 => ?_⟩
    rw [h12] at hle
    exact absurd hle (by decide)

/-- The form R98 gives the response of a command. -/
def ResponseForm (i : Instr) (s t : State) (r : Response) : Prop :=
  t.responses = s.responses ++ [r] ∧ r.code.toNat ≤ 15 ∧ (r.code ≠ 0 → r.data = []) ∧
    (r.code = 0 → SuccessData i s t r.data)

theorem responseForm_of_error {i : Instr} {s t : State} (e : ErrCode)
    (h : t.responses = s.responses ++ [{ code := e.code, data := [] }]) :
    ResponseForm i s t { code := e.code, data := [] } := by
  refine ⟨h, e.code_toNat_le, fun _ => rfl, fun h0 => ?_⟩
  have hpos := e.code_toNat_pos
  rw [show e.code = 0 from h0] at hpos
  exact absurd hpos (by decide)

theorem responseForm_of_success {i : Instr} {s t : State} {data : List Word}
    (h : t.responses = s.responses ++ [{ code := 0, data := data }]) (hdata : SuccessData i s t data) :
    ResponseForm i s t { code := 0, data := data } :=
  ⟨h, Nat.zero_le _, fun h0 => absurd rfl h0, fun _ => hdata⟩

theorem exec_responseForm {i : Instr} {s t : State} (ht : exec i s = .next t) : ∃ r, ResponseForm i s t r := by
  obtain ⟨p, hp⟩ := exists_phase_of_inSession s.regs
  rcases exec_cases hp ht with ⟨-, rfl⟩ | rfl | rfl | ⟨data, hdata, h | ⟨e, -, h⟩⟩
  · exact ⟨_, responseForm_of_error .state rfl⟩
  · exact ⟨_, responseForm_of_error .reg rfl⟩
  · exact ⟨_, responseForm_of_error .param rfl⟩
  · exact ⟨_, responseForm_of_success h hdata⟩
  · exact ⟨_, responseForm_of_error e h⟩

/-- Settles O11: every way a command ends appends one record of R98's form. -/
theorem everyCommandGivesOneResponse : Obligations.EveryCommandGivesOneResponse := by
  unfold Obligations.EveryCommandGivesOneResponse
  intro i s t ht
  obtain ⟨r, hresp, hle, herror, hsuccess⟩ := exec_responseForm ht
  refine ⟨r, hresp, hle, herror, fun h0 => ?_⟩
  have hdata := hsuccess h0
  cases i <;> exact hdata

end Sys2Proof.Machine
end

section
/-! The words of one opcode (spec/30_encoding.md R90, R91, R94): the word of a command as a sum of its shifted fields, and which
words with the number of an opcode are illegal. -/

namespace Sys2Proof

open Machine Claims

theorem Opcode.number_injective : Function.Injective Opcode.number := by
  intro o o' h
  exact Option.some.inj (((opcodeOf_eq_some _ o).mpr h).symm.trans ((opcodeOf_eq_some _ o').mpr rfl))

/-- The word of a command is `OP * 2^56 + RA * 2^48 + IMM`, an operand its format does not use counting 0 (R90, R91). -/
theorem decode_ofNat_fields (i : Instr) :
    decode (BitVec.ofNat 64 (i.opcode.number.toNat * 2 ^ 56 + i.raField.toNat * 2 ^ 48 + i.immField.toNat)) = .ok i := by
  have hsum : (encode i).toNat =
      i.opcode.number.toNat * 2 ^ 56 + i.raField.toNat * 2 ^ 48 + i.immField.toNat := by
    simpa [encode, encodeFields] using toNat_joinFields (encodeFields i)
  rw [decode_eq_ok_iff, ← hsum, BitVec.ofNat_toNat, BitVec.setWidth_eq]

/-- A word with the number of an opcode is illegal when its other fields are not those of that opcode (R94). -/
theorem answeredIllegal_of_not_fieldsOfOpcode {w : CommandWord} {o : Opcode} (hop : w.extractLsb' 56 8 = o.number)
    (h : ¬ FieldsOfOpcode o (fieldsOf w)) : AnsweredIllegal w := by
  cases hd : decode w with
  | error e => exact answeredIllegal_of_decode_error hd
  | ok i =>
    have hnum : i.opcode.number = o.number := (congrArg Fields.op (fieldsOf_of_decode hd)).symm.trans hop
    exact absurd ((exists_decode_iff_fieldsOfOpcode w o).mp ⟨i, hd, Opcode.number_injective hnum⟩) h

/-- `RSV` must be 0 in every format (R91). -/
theorem answeredIllegal_of_rsv_ne_zero {w : CommandWord} {o : Opcode} (hop : w.extractLsb' 56 8 = o.number)
    (h : w.extractLsb' 32 16 ≠ 0) : AnsweredIllegal w :=
  answeredIllegal_of_not_fieldsOfOpcode hop fun ⟨_, _, hrsv, _⟩ => h hrsv

/-- `IMM` must be 0 in a format without an immediate (R91). -/
theorem answeredIllegal_of_imm_ne_zero {w : CommandWord} {o : Opcode} (hop : w.extractLsb' 56 8 = o.number)
    (hfmt : o.format.usesImm = false) (h : w.extractLsb' 0 32 ≠ 0) : AnsweredIllegal w :=
  answeredIllegal_of_not_fieldsOfOpcode hop fun ⟨_, _, _, himm⟩ => h (himm hfmt)

/-- In format N the opcode fixes all four fields (R91). -/
theorem fieldsOfOpcode_iff_of_format_n {o : Opcode} (hn : o.format = .n) (f : Fields) :
    FieldsOfOpcode o f ↔ f = { op := o.number, ra := 0, rsv := 0, imm := 0 } := by
  obtain ⟨op, ra, rsv, imm⟩ := f
  simp [FieldsOfOpcode, hn, Format.usesRa, Format.usesImm]

/-- A command of format N has one word (R91). -/
theorem oneWord_encode {i : Instr} (hn : i.opcode.format = .n) : OneWord i (encode i) := by
  refine ⟨(decode_eq_ok_iff _ i).mpr rfl, fun w hop hne => ?_⟩
  have hword : fieldsOf (encode i) = { op := i.opcode.number, ra := 0, rsv := 0, imm := 0 } := by
    rw [encode, fieldsOf_joinFields]
    exact (fieldsOfOpcode_iff_of_format_n hn _).mp (fieldsOfOpcode_encodeFields i)
  have hnum : w.extractLsb' 56 8 = i.opcode.number := hop.trans (congrArg Fields.op hword)
  refine answeredIllegal_of_not_fieldsOfOpcode hnum fun hw => hne (fieldsOf_inj.mp ?_)
  rw [(fieldsOfOpcode_iff_of_format_n hn _).mp hw, hword]

end Sys2Proof
end

section
/-! The host register commands NOP, SETR and RDR (spec/40_host_register_commands.md R120 to R122): what each answers and what it
writes. -/

namespace Sys2Proof.Machine

open Sys2Proof.Claims

/-! ### Responses as the statements write them -/

theorem raise_eq_answered (e : ErrCode) (s : State) : raise e s = answered e.code [] s := rfl

theorem respondOk_eq_answered (data : List Word) (s : State) : respondOk data s = answered 0 data s := rfl

/-! ### Registers by index and by host access (10_state.md R22) -/

theorem regIndex_injective : Function.Injective regIndex := by
  intro r r' h
  exact Option.some.inj ((regOfIndex_regIndex r).symm.trans ((regOfIndex_eq_some _ r').mpr h.symm))

theorem mem_readOnlyRegs_iff (r : Reg) : r ∈ readOnlyRegs ↔ hostWritable r = false := by
  cases r <;> decide

theorem registerAccepted_setr_iff (r : Reg) (imm : Word) :
    registerAccepted (.setr (regIndex r) imm) ↔ r ∉ readOnlyRegs := by
  rw [mem_readOnlyRegs_iff, Bool.not_eq_false]
  constructor
  · rintro ⟨r', hr', hwr⟩
    rwa [← regIndex_injective hr']
  · exact fun hwr => ⟨r, rfl, hwr⟩

/-! ### The words of SETR and RDR -/

theorem decode_setr_word (ra : BitVec 8) (imm : Word) :
    decode (BitVec.ofNat 64 (1 * 2 ^ 56 + ra.toNat * 2 ^ 48 + imm.toNat)) = .ok (.setr ra imm) :=
  decode_ofNat_fields (.setr ra imm)

theorem decode_rdr_word (ra : BitVec 8) : decode (BitVec.ofNat 64 (2 * 2 ^ 56 + ra.toNat * 2 ^ 48)) = .ok (.rdr ra) := by
  simpa [Instr.opcode, Opcode.number, Instr.raField, Instr.immField] using decode_ofNat_fields (.rdr ra)

/-! ### What each command does once its phase is known -/

theorem inSession_of_phaseBits_ne {f : RegFile} (h : phaseBits f ≠ Phase.ready.code) : inSession f = false :=
  beq_eq_false_iff_ne.mpr h

theorem exec_nop (s : State) : exec .nop s = .next (answered 0 [] s) := rfl

theorem exec_rdr_regIndex (r : Reg) (s : State) : exec (.rdr (regIndex r)) s = .next (answered 0 [s.regs.get r] s) := by
  rw [exec, execRdr, regOfIndex_regIndex]
  rfl

/-- RDR of an index that is not implemented, in every phase (R122). -/
theorem exec_rdr_of_unimplemented {ra : BitVec 8} (s : State) (h : ∀ r, regIndex r ≠ ra) :
    exec (.rdr ra) s = .next (answered 15 [] s) := by
  obtain ⟨p, hp⟩ := exists_phase_of_inSession s.regs
  exact exec_of_register_refused hp rfl fun ⟨r, hr⟩ => h r hr

/-- SETR in session (R97, R121). -/
theorem exec_setr_of_ready {s : State} (ra : BitVec 8) (imm : Word) (h : phaseBits s.regs = Phase.ready.code) :
    exec (.setr ra imm) s = .next (answered 12 [] s) :=
  exec_of_phase_refused (inSession_of_phaseBits h) rfl

/-- SETR of a register the host may not write, or of none (R121). -/
theorem exec_setr_of_register_refused {s : State} {ra : BitVec 8} {imm : Word} (h : phaseBits s.regs ≠ Phase.ready.code)
    (hr : ¬ registerAccepted (.setr ra imm)) : exec (.setr ra imm) s = .next (answered 15 [] s) :=
  exec_of_register_refused (p := .uninit) (inSession_of_phaseBits_ne h) rfl hr

/-- SETR of a register the host may write (R121). -/
theorem exec_setr_of_writable {s : State} {r : Reg} (imm : Word) (h : phaseBits s.regs ≠ Phase.ready.code)
    (hr : r ∉ readOnlyRegs) :
    exec (.setr (regIndex r) imm) s =
      .next (answered 0 [] { s with regs := s.regs.set r (hostValue r imm) }) := by
  have hwr : hostWritable r = true := by rwa [mem_readOnlyRegs_iff, Bool.not_eq_false] at hr
  rw [exec, execSetr, whenIdle_of_not_inSession (inSession_of_phaseBits_ne h), regOfIndex_regIndex]
  simp only [if_pos hwr, respondOk_eq_answered]

/-! ### The statements -/

/-- Settles O24: the words of SETR by their fields, the checks that refuse it, and the one register it writes. -/
theorem setrWritesOneRegister : Obligations.SetrWritesOneRegister := by
  unfold Obligations.SetrWritesOneRegister
  refine ⟨decode_setr_word, fun w hop => answeredIllegal_of_rsv_ne_zero (o := .setr) hop,
    fun s => exec_setr_of_ready, fun s ra imm hidle hnone => ?_, fun s r imm hidle hro => ?_, fun s r imm hidle hrw => ?_⟩
  · exact exec_setr_of_register_refused hidle fun ⟨r, hr, _⟩ => hnone r hr
  · exact exec_setr_of_register_refused hidle fun hacc => (registerAccepted_setr_iff r imm).mp hacc hro
  · refine ⟨s.regs.set r (hostValue r imm), exec_setr_of_writable imm hidle hrw, ?_, fun r' hne => ?_⟩
    · rw [RegFile.get_set, if_pos rfl, hostValue]
    · rw [RegFile.get_set, if_neg hne]

/-- Settles O23: NOP is of format N, and its word has every field 0. -/
theorem nopOnlyAnswers : Obligations.NopOnlyAnswers := by
  unfold Obligations.NopOnlyAnswers
  have hword : encode .nop = 0 := by decide
  exact ⟨hword ▸ oneWord_encode rfl, exec_nop⟩

/-- Settles O25: the words of RDR by their fields, and the value at its index. -/
theorem rdrReadsAnyRegister : Obligations.RdrReadsAnyRegister := by
  unfold Obligations.RdrReadsAnyRegister
  refine ⟨decode_rdr_word, fun w hop hne => ?_, fun s ra => exec_rdr_of_unimplemented s,
    fun s r => exec_rdr_regIndex r s⟩
  rcases hne with hrsv | himm
  · exact answeredIllegal_of_rsv_ne_zero (o := .rdr) hop hrsv
  · exact answeredIllegal_of_imm_ne_zero (o := .rdr) hop rfl himm

end Sys2Proof.Machine
end

section
/-! The Format Table and MAP (spec/41_format_table.md R130 to R134): which row an identifier has, what `Map` gives for it, and
what MAP writes. A claim about every identifier is one about the 22 rows and one about the identifiers without a row. -/

namespace Sys2Proof.Machine

open Sys2Proof.Claims

/-! ### The rows of the table (R130) -/

/-- No two rows have the same identifier, so a lookup finds the row it is made with. -/
theorem formatRow_of_mem : ∀ r ∈ producerFormats, formatRow r.fmt = some r := by decide

theorem formatRow_eq_some_iff (fmt : Word) (r : FormatRow) :
    formatRow fmt = some r ↔ r ∈ producerFormats ∧ r.fmt = fmt := by
  constructor
  · intro h
    exact ⟨List.mem_of_find?_eq_some h, by simpa using List.find?_some h⟩
  · rintro ⟨hr, rfl⟩
    exact formatRow_of_mem r hr

theorem formatRow_eq_none_iff (fmt : Word) : formatRow fmt = none ↔ fmt ∉ producerFormats.map FormatRow.fmt := by
  simp [formatRow, List.find?_eq_none]

/-! ### `Map` of an identifier with a row and of one without (R132) -/

theorem mapFormat_of_mem {r : FormatRow} (hr : r ∈ producerFormats) (native : Bool) :
    mapFormat r.fmt native = if native then r.native else r.plain := by
  rw [mapFormat, formatRow_of_mem r hr]

theorem mapFormat_of_unknown {fmt : Word} (h : fmt ∉ producerFormats.map FormatRow.fmt) (native : Bool) :
    mapFormat fmt native = .unsupported := by
  rw [mapFormat, (formatRow_eq_none_iff fmt).mpr h]

/-- Every identifier is that of a row, or has none. -/
theorem format_known_or_unknown (fmt : Word) :
    (∃ r ∈ producerFormats, r.fmt = fmt) ∨ fmt ∉ producerFormats.map FormatRow.fmt := by
  rw [← List.mem_map]
  exact Decidable.em _

/-- The numbers R132 writes for a row: its identifier, and `C_FMT` without and with the flag. -/
def FormatRow.codes (r : FormatRow) : Word × Word × Word := (r.fmt, r.plain.code, r.native.code)

theorem mapRows_eq_codes : mapRows = producerFormats.map FormatRow.codes := rfl

theorem mapRows_identifiers : mapRows.map Prod.fst = producerFormats.map FormatRow.fmt := rfl

/-! ### The native flag (R23, R133) -/

/-- A field of one bit is 1 exactly when that bit is set. -/
theorem bits_beq_one (w : Word) (lo : Nat) : (bits w lo 1 == 1) = w.getLsbD lo := by
  have hfield : bits w lo 1 = BitVec.ofBool (w.getLsbD lo) := by
    apply BitVec.eq_of_getLsbD_eq
    intro i hi
    obtain rfl : i = 0 := by omega
    simp [bits]
  rw [hfield]
  cases w.getLsbD lo <;> rfl

theorem ctrlNative_eq_getLsbD (f : RegFile) : ctrlNative f = f.ctrl.getLsbD 0 := bits_beq_one f.ctrl 0

theorem runMap_eq (f : RegFile) :
    runMap f = { f with cFmt := (mapFormat f.pFmt (f.ctrl.getLsbD 0)).code } := by
  rw [runMap, ctrlNative_eq_getLsbD]

/-- No row has a wide format without the flag. -/
theorem plain_not_wide : ∀ r ∈ producerFormats, r.plain.code ∉ wideFormats := by decide

/-- The identifiers of the rows whose two formats differ: the 16-bit formats and the float formats with three planes. -/
def nativeSensitiveFormats : List Word := [0x13, 0x23, 0x33, 0x43, 0x24, 0x34, 0x44]

theorem native_ne_plain_iff :
    ∀ r ∈ producerFormats, r.native ≠ r.plain ↔ r.fmt ∈ nativeSensitiveFormats := by decide

theorem nativeSensitiveFormats_known : nativeSensitiveFormats ⊆ producerFormats.map FormatRow.fmt := by decide

theorem mapFormat_without_flag_not_wide (fmt : Word) : (mapFormat fmt false).code ∉ wideFormats := by
  rcases format_known_or_unknown fmt with ⟨r, hr, rfl⟩ | hunknown
  · rw [mapFormat_of_mem hr]
    exact plain_not_wide r hr
  · rw [mapFormat_of_unknown hunknown]
    decide

theorem mapFormat_flag_ne_iff (fmt : Word) :
    mapFormat fmt true ≠ mapFormat fmt false ↔ fmt ∈ nativeSensitiveFormats := by
  rcases format_known_or_unknown fmt with ⟨r, hr, rfl⟩ | hunknown
  · rw [mapFormat_of_mem hr, mapFormat_of_mem hr]
    exact native_ne_plain_iff r hr
  · rw [mapFormat_of_unknown hunknown, mapFormat_of_unknown hunknown]
    exact iff_of_false (not_not.mpr rfl) fun h => hunknown (nativeSensitiveFormats_known h)

/-! ### MAP once its phase is known (R134) -/

theorem exec_map_of_ready {s : State} (h : phaseBits s.regs = Phase.ready.code) :
    exec .map s = .next (answered 12 [] s) :=
  exec_of_phase_refused (inSession_of_phaseBits h) rfl

theorem exec_map_of_idle {s : State} (h : phaseBits s.regs ≠ Phase.ready.code) :
    exec .map s = .next (answered 0 [] { s with regs :=
      { s.regs with cFmt := (mapFormat s.regs.pFmt (s.regs.ctrl.getLsbD 0)).code } }) := by
  rw [exec, execMap, whenIdle_of_not_inSession (inSession_of_phaseBits_ne h), respondOk_eq_answered, runMap_eq]

/-! ### The statements -/

/-- Settles O29: what MAP writes is a function of the two arguments; the other two claims hold row by row, and without a row
both flags give UNSUPPORTED. -/
theorem nativeFlagChangesSevenRows : Obligations.NativeFlagChangesSevenRows := by
  unfold Obligations.NativeFlagChangesSevenRows
  refine ⟨fun f g hfmt hnative => ?_, mapFormat_without_flag_not_wide, mapFormat_flag_ne_iff⟩
  rw [runMap_eq, runMap_eq, hfmt, hnative]

/-- Settles O27: MAP is of format N, refused in READY, and writes the one register otherwise. -/
theorem mapWritesTheConsumerFormat : Obligations.MapWritesTheConsumerFormat := by
  unfold Obligations.MapWritesTheConsumerFormat
  have hword : encode .map = 0x2000000000000000 := by decide
  exact ⟨hword ▸ oneWord_encode rfl, fun _ => exec_map_of_ready, fun _ => exec_map_of_idle⟩

/-- Settles O28: the numbers of R132 are those of the model's rows. -/
theorem mapTableRows : Obligations.MapTableRows := by
  unfold Obligations.MapTableRows
  rw [mapRows_identifiers, mapRows_eq_codes, List.forall_mem_map]
  refine ⟨fun r hr => ?_, fun fmt native hunknown => ?_⟩
  · rw [FormatRow.codes, mapFormat_of_mem hr, mapFormat_of_mem hr]
    exact ⟨rfl, rfl⟩
  · rw [mapFormat_of_unknown hunknown]
    rfl

end Sys2Proof.Machine
end

section
/-! The Geometry Calculator and the transcoder selection (spec/42_geometry_and_select.md R150 to R159): one equation for each
rule of `Resolve` and of `Select`, the numbers they come to in the registers, and what RESOLVE and SELECT write. -/

namespace Sys2Proof.Machine

open Sys2Proof.Claims

/-! ### `Resolve`, rule by rule (R152) -/

section Rules

variable {b c : Word} {st : Bool}

theorem resolveGeometry_of_packed (hpacked : c ∈ packedFormats) (w h : Word) :
    resolveGeometry b c st w h = (.native, w, h) := if_pos ((isPacked_iff c).mpr hpacked)

theorem resolveGeometry_of_not_packed (hpacked : c ∉ packedFormats) (w h : Word) :
    resolveGeometry b c st w h =
      if b = 1 then (.native, w, h) else if isWide c then (.native, w, h)
      else if st then (.stacked, w, 2 * h) else (.doubledWidth, w * b, h) :=
  if_neg (mt (isPacked_iff c).mp hpacked)

theorem resolveGeometry_of_oneByte (hpacked : c ∉ packedFormats) (hb : b = 1) (w h : Word) :
    resolveGeometry b c st w h = (.native, w, h) := by
  rw [resolveGeometry_of_not_packed hpacked, if_pos hb]

theorem resolveGeometry_of_wide (hpacked : c ∉ packedFormats) (hb : b ≠ 1) (hwide : c ∈ wideFormats) (w h : Word) :
    resolveGeometry b c st w h = (.native, w, h) := by
  rw [resolveGeometry_of_not_packed hpacked, if_neg hb, if_pos ((isWide_iff c).mpr hwide)]

/-- Where neither the format nor the sample width decides, the request does (rules 3 and 4). -/
theorem resolveGeometry_of_request (hpacked : c ∉ packedFormats) (hb : b ≠ 1) (hwide : c ∉ wideFormats) (w h : Word) :
    resolveGeometry b c st w h = if st then (.stacked, w, 2 * h) else (.doubledWidth, w * b, h) := by
  rw [resolveGeometry_of_not_packed hpacked, if_neg hb, if_neg (mt (isWide_iff c).mp hwide)]

end Rules

/-! ### What RESOLVE writes (R153) -/

theorem ctrlStackedReq_eq_getLsbD (f : RegFile) : ctrlStackedReq f = f.ctrl.getLsbD 1 := bits_beq_one f.ctrl 1

/-- `PMODE`, `C_WIDTH` and `C_HEIGHT` as numbers, by the rules of R152 in their order; the products wrap (R154). -/
def resolvedGeometry (f : RegFile) : Word × Word × Word :=
  if f.cFmt ∈ packedFormats then (0, f.pWidth, f.pHeight)
  else if f.pBps = 1 then (0, f.pWidth, f.pHeight)
  else if f.cFmt ∈ wideFormats then (0, f.pWidth, f.pHeight)
  else if f.ctrl.getLsbD 1 then (2, f.pWidth, BitVec.ofNat 32 (2 * f.pHeight.toNat))
  else (1, BitVec.ofNat 32 (f.pWidth.toNat * f.pBps.toNat), f.pHeight)

/-- The mode as its number, the sizes as they are. -/
def geometryNumbers (r : PackingMode × Word × Word) : Word × Word × Word := (r.1.code, r.2.1, r.2.2)

theorem geometryNumbers_resolveGeometry (f : RegFile) :
    geometryNumbers (resolveGeometry f.pBps f.cFmt (ctrlStackedReq f) f.pWidth f.pHeight) = resolvedGeometry f := by
  unfold resolvedGeometry
  split_ifs with hpacked hb hwide hst
  · rw [resolveGeometry_of_packed hpacked]; rfl
  · rw [resolveGeometry_of_oneByte hpacked hb]; rfl
  · rw [resolveGeometry_of_wide hpacked hb hwide]; rfl
  · rw [resolveGeometry_of_request hpacked hb hwide, ctrlStackedReq_eq_getLsbD, if_pos hst]; rfl
  · rw [resolveGeometry_of_request hpacked hb hwide, ctrlStackedReq_eq_getLsbD, if_neg hst]; rfl

theorem runResolve_eq (f : RegFile) :
    runResolve f =
      { f with pmode := (resolvedGeometry f).1, cWidth := (resolvedGeometry f).2.1, cHeight := (resolvedGeometry f).2.2,
               cFrames := f.pFrames, cFpsnum := f.pFpsnumLo, cFpsden := f.pFpsdenLo } := by
  rw [← geometryNumbers_resolveGeometry]
  rfl

theorem exec_resolve_of_ready {s : State} (h : phaseBits s.regs = Phase.ready.code) :
    exec .resolve s = .next (answered 12 [] s) :=
  exec_of_phase_refused (inSession_of_phaseBits h) rfl

theorem exec_resolve_of_idle {s : State} (h : phaseBits s.regs ≠ Phase.ready.code) :
    exec .resolve s = .next (answered 0 [] { s with regs := runResolve s.regs }) := by
  rw [exec, execResolve, whenIdle_of_not_inSession (inSession_of_phaseBits_ne h), respondOk_eq_answered]

/-! ### `Select` and what SELECT writes (R156 to R159) -/

theorem selectTranscoder_bgr24 (mode : Word) : selectTranscoder 13 mode = .bgrpack := if_pos rfl

/-- `SEL` as a number (10_state.md R37), by the conditions of R156 in their order. -/
theorem code_selectTranscoder (c mode : Word) :
    (selectTranscoder c mode).code = if c = 13 then 2 else if mode = 2 then 1 else 0 := by
  unfold selectTranscoder
  split_ifs <;> rfl

theorem Transcoder.code_eq_zero_iff (t : Transcoder) : t.code = 0 ↔ t = .blit := by
  cases t <;> decide

theorem flipBit_iff (bgr32Flip : Bool) (t : Transcoder) (c : Word) :
    flipBit bgr32Flip t c = true ↔ t = .blit ∧ c = 14 ∧ bgr32Flip = true := by
  simp [flipBit, and_assoc]

/-- `flip` as a number (R158), with the transcoder by its number. -/
theorem ite_flipBit_eq (bgr32Flip : Bool) (t : Transcoder) (c : Word) :
    (if flipBit bgr32Flip t c then 4 else 0 : Word) = 4 * (if t.code = 0 ∧ c = 14 ∧ bgr32Flip = true then 1 else 0) := by
  have hflip : flipBit bgr32Flip t c = true ↔ t.code = 0 ∧ c = 14 ∧ bgr32Flip = true := by
    rw [Transcoder.code_eq_zero_iff, flipBit_iff]
  rw [mul_ite]
  exact if_congr hflip rfl rfl

/-- `sel + 4 * flip` as numbers (R156, R158). -/
def selectedXsel (bgr32Flip : Bool) (f : RegFile) : Word :=
  let sel : Word := if f.cFmt = 13 then 2 else if f.pmode = 2 then 1 else 0
  let flip : Word := if sel = 0 ∧ f.cFmt = 14 ∧ bgr32Flip = true then 1 else 0
  sel + 4 * flip

theorem runSelect_eq (bgr32Flip : Bool) (f : RegFile) :
    runSelect bgr32Flip f = { f with xsel := selectedXsel bgr32Flip f } := by
  rw [runSelect, ite_flipBit_eq, selectedXsel, ← code_selectTranscoder]

theorem exec_select_of_ready {s : State} (h : phaseBits s.regs = Phase.ready.code) :
    exec .select s = .next (answered 12 [] s) :=
  exec_of_phase_refused (inSession_of_phaseBits h) rfl

theorem exec_select_of_idle {s : State} (h : phaseBits s.regs ≠ Phase.ready.code) :
    exec .select s = .next (answered 0 [] { s with regs := runSelect s.platform.bgr32Flip s.regs }) := by
  rw [exec, execSelect, whenIdle_of_not_inSession (inSession_of_phaseBits_ne h), respondOk_eq_answered]

/-! ### The statements -/

/-- Settles O33: BGR24 is a packed format, so rule 0 of R152 decides its mode, and the first condition of R156 its
transcoder. -/
theorem bgrPackedIsNeverStacked : Obligations.BgrPackedIsNeverStacked := by
  unfold Obligations.BgrPackedIsNeverStacked
  have hpacked : (13 : Word) ∈ packedFormats := by decide
  refine ⟨fun b st w h => ?_, selectTranscoder_bgr24⟩
  rw [resolveGeometry_of_packed hpacked]

/-- Settles O30: RESOLVE is of format N, refused in READY, and otherwise writes the numbers of the first rule that holds. -/
theorem resolveWritesTheGeometry : Obligations.ResolveWritesTheGeometry := by
  unfold Obligations.ResolveWritesTheGeometry
  have hword : encode .resolve = 0x2100000000000000 := by decide
  refine ⟨hword ▸ oneWord_encode rfl, fun _ => exec_resolve_of_ready, fun s hidle => ?_⟩
  rw [exec_resolve_of_idle hidle, runResolve_eq]
  rfl

/-- Settles O32: SELECT is of format N, refused in READY, and otherwise writes `XSEL` by R156 and R158. -/
theorem selectWritesTheTranscoder : Obligations.SelectWritesTheTranscoder := by
  unfold Obligations.SelectWritesTheTranscoder
  have hword : encode .select = 0x2200000000000000 := by decide
  refine ⟨hword ▸ oneWord_encode rfl, fun _ => exec_select_of_ready, fun s hidle => ?_⟩
  rw [exec_select_of_idle hidle, runSelect_eq]
  rfl

end Sys2Proof.Machine
end

section
/-! The split of a sample into its two bytes (spec/43_transcoders.md R174, R175): the bytes are the quotient and the remainder by
256, so that `Unstack` puts the sample together again by division with remainder. -/

namespace Sys2Proof.Machine

theorem sampleMsb_toNat (s : Sample) : (sampleMsb s).toNat = s.toNat / 256 := by
  have hbyte : s.toNat / 2 ^ 8 < 2 ^ 8 := by have := s.isLt; omega
  rw [sampleMsb, BitVec.toNat_setWidth, BitVec.toNat_ushiftRight, Nat.shiftRight_eq_div_pow]
  exact Nat.mod_eq_of_lt hbyte

theorem sampleLsb_toNat (s : Sample) : (sampleLsb s).toNat = s.toNat % 256 := by
  have hmask : s.toNat &&& (0xFF : Sample).toNat = s.toNat % 2 ^ 8 := Nat.and_two_pow_sub_one_eq_mod s.toNat 8
  rw [sampleLsb, BitVec.toNat_setWidth, BitVec.toNat_and, hmask]
  exact Nat.mod_mod s.toNat 256

theorem unstack_toNat (m l : Byte) : (unstack m l).toNat = 256 * m.toNat + l.toNat := by
  rw [unstack, toNat_append_eq_add]
  omega

/-- Unstacking undoes the split: the quotient times 256 and the remainder make up the sample. -/
theorem unstack_split (s : Sample) : unstack (sampleMsb s) (sampleLsb s) = s := by
  apply BitVec.eq_of_toNat_eq
  rw [unstack_toNat, sampleMsb_toNat, sampleLsb_toNat, Nat.div_add_mod]

/-- Settles O42: the bytes of a sample are its quotient and remainder by 256, and `Unstack` is the inverse of the split on both
sides. -/
theorem sampleSplitIsABijection : Obligations.SampleSplitIsABijection := by
  unfold Obligations.SampleSplitIsABijection
  exact ⟨fun s => ⟨sampleMsb_toNat s, sampleLsb_toNat s⟩, unstack_toNat, unstack_split,
    fun m l => ⟨sampleMsb_append m l, sampleLsb_append m l⟩⟩

end Sys2Proof.Machine
end

section
/-! GETGEOM and CLOSE (spec/44_session.md R209, R214, R215): the geometry answered in session alone, and a CLOSE as the releases
the HAVE bits call for followed by the clearing of the registers. -/

namespace Sys2Proof.Machine

open Sys2Proof.Claims Sys2Proof.Safety

/-! ### GETGEOM once its phase is known (R209) -/

theorem exec_getgeom_of_idle {s : State} (h : phaseBits s.regs ≠ Phase.ready.code) :
    exec .getgeom s = .next (answered 12 [] s) :=
  exec_of_phase_refused (p := .uninit) (inSession_of_phaseBits_ne h) rfl

theorem exec_getgeom_of_ready {s : State} (h : phaseBits s.regs = Phase.ready.code) :
    exec .getgeom s = .next (answered 0
      [s.regs.cWidth, s.regs.cHeight, s.regs.cFrames, s.regs.cFpsnum, s.regs.cFpsden, s.regs.cFmt] s) := by
  have hin : inSession s.regs = true := inSession_of_phaseBits h
  rw [exec, execGetgeom, if_pos hin, respondOk_eq_answered]

/-! ### The registers after CLOSE (R214) -/

theorem get_clearForClose (f : RegFile) (r : Reg) :
    (clearForClose f).get r = if r = .ctrl ∨ r = .scriptRef then f.get r else 0 := by
  cases r <;> rfl

theorem clearForClose_clearForClose (f : RegFile) : clearForClose (clearForClose f) = clearForClose f := rfl

theorem phaseBits_clearForClose (f : RegFile) : phaseBits (clearForClose f) = Phase.uninit.code :=
  (statusFields_of_status_eq_zero (clearForClose f) rfl).1

theorem heldBy_clearForClose (f : RegFile) : heldBy (clearForClose f) = Ledger.empty := by
  obtain ⟨-, hengine, hctx, hnode, hframe, -⟩ := statusFields_of_status_eq_zero (clearForClose f) rfl
  simp [heldBy, Ledger.empty, hengine, hctx, hnode, hframe]

/-- With no HAVE bit set there is nothing to release (R214, corner case (a)). -/
theorem closeCalls_clearForClose (f : RegFile) : closeCalls (clearForClose f) = [] := by
  obtain ⟨-, hengine, hctx, hnode, -⟩ := statusFields_of_status_eq_zero (clearForClose f) rfl
  simp [closeCalls, hengine, hctx, hnode]

/-! ### What CLOSE does (R214) -/

/-- The statements list the releases as the environment laws do. -/
theorem releaseCalls_eq_closeCalls (f : RegFile) : releaseCalls f = closeCalls f := rfl

/-- The releases, the cleared registers and one success: all that CLOSE does. -/
theorem closeBody_eq (s : State) :
    closeBody s = answered 0 [] (afterEvents s (clearForClose s.regs) (closeCalls s.regs) s.env) := by
  rw [closeBody, closeReleases_eq, onRegs_afterEvents, respondOk_eq_answered, releaseCalls_eq_closeCalls]

theorem exec_close_of_answers {s : State} (h : EnvAnswers s) :
    exec .close s = .next (answered 0 [] (afterEvents s (clearForClose s.regs) (closeCalls s.regs) s.env)) := by
  rw [exec, execClose, afterCalls_of_answers _ _ h, closeBody_eq]

/-- A CLOSE that ends leaves cleared registers. -/
theorem regs_of_exec_close {s t : State} (h : exec .close s = .next t) : t.regs = clearForClose s.regs := by
  rw [exec, execClose, afterCalls_eq_next, closeBody_eq] at h
  obtain ⟨rfl, -⟩ := h
  rfl

/-! ### CLOSE with nothing to do (R215) -/

/-- No call is numbered from `k` up to `k`. -/
theorem stallsBetween_self (e : Environment) (k : Nat) : stallsBetween e k k = false := by
  unfold stallsBetween
  cases e.stallAt with
  | none => rfl
  | some j => simp

/-- CLOSE where the registers are as a CLOSE leaves them, whatever call the environment may leave unanswered. -/
theorem exec_close_of_cleared {s : State} (h : clearForClose s.regs = s.regs) :
    exec .close s = .next (answered 0 [] s) := by
  have hcalls : closeCalls s.regs = [] := h ▸ closeCalls_clearForClose s.regs
  have hbody : closeBody s = answered 0 [] s := by rw [closeBody_eq, h, hcalls, afterEvents_nil]
  rw [exec, execClose, hbody, afterCalls_eq_next]
  exact ⟨rfl, stallsBetween_self s.env s.trace.length⟩

/-! ### The statements -/

/-- Settles O54: CLOSE is of format N, and its one equation gives the trace, the registers and the response. -/
theorem closeReleasesAndClears : Obligations.CloseReleasesAndClears := by
  unfold Obligations.CloseReleasesAndClears
  have hword : encode .close = 0x1300000000000000 := by decide
  exact ⟨hword ▸ oneWord_encode rfl, fun s hans =>
    ⟨_, exec_close_of_answers hans, rfl, get_clearForClose s.regs, rfl, rfl, rfl⟩⟩

/-- Settles O55: the first CLOSE leaves cleared registers, so the second finds nothing to release and nothing to clear. -/
theorem closeIsIdempotent : Obligations.CloseIsIdempotent := by
  unfold Obligations.CloseIsIdempotent
  intro s t ht
  have hregs : t.regs = clearForClose s.regs := regs_of_exec_close ht
  have hcleared : clearForClose t.regs = t.regs := by rw [hregs, clearForClose_clearForClose]
  refine ⟨?_, ?_, exec_close_of_cleared hcleared⟩
  · rw [hregs, phaseBits_clearForClose]
  · rw [hregs, heldBy_clearForClose]

/-- Settles O50: GETGEOM is of format N, raises `E_STATE` outside READY, and answers the six registers in READY. -/
theorem getgeomAnswersTheGeometry : Obligations.GetgeomAnswersTheGeometry := by
  unfold Obligations.GetgeomAnswersTheGeometry
  have hword : encode .getgeom = 0x1100000000000000 := by decide
  exact ⟨hword ▸ oneWord_encode rfl, fun _ => exec_getgeom_of_idle, fun _ => exec_getgeom_of_ready⟩

end Sys2Proof.Machine
end

section
/-! Decode and encode agree (spec/30_encoding.md R90, R94), the words written out from the spec, and what a step does with
a word that decodes (spec/10_state.md R21). -/

namespace Sys2Proof

open Machine Claims

theorem decode_encode (i : Instr) : decode (encode i) = .ok i := (decode_eq_ok_iff _ i).mpr rfl

/-- Settles O1: the word of a command is the one word that decodes to it. -/
theorem encodeThenDecodeGivesTheCommand : Obligations.EncodeThenDecodeGivesTheCommand := by
  unfold Obligations.EncodeThenDecodeGivesTheCommand
  exact fun i _ => decode_encode i

/-- Settles O2: only the word of a command decodes to it. -/
theorem decodedWordIsTheEncodedWord : Obligations.DecodedWordIsTheEncodedWord := by
  unfold Obligations.DecodedWordIsTheEncodedWord
  exact fun w i h => ((decode_eq_ok_iff w i).mp h).symm

/-- Settles O5: each word is the word of its command; the one with `RSV` = 1 stops at the check of that field. -/
theorem specWordsDecode : Obligations.SpecWordsDecode := by
  unfold Obligations.SpecWordsDecode
  simp only [decode_eq_ok_iff]
  refine ⟨?_, ?_, ?_, ?_, ?_, ?_, ?_, ?_, ?_, ?_, ?_, ?_, ?_, ?_, rfl⟩ <;> decide

/-- Settles O7: the three ways a step goes, by the word presented and by how its command ends. -/
theorem stepRunsTheDecodedCommand : Obligations.StepRunsTheDecodedCommand := by
  unfold Obligations.StepRunsTheDecodedCommand
  refine ⟨fun s t w i hw hd _ ht => ?_, fun s w i r hw hd hr => ?_, fun s hnone => ?_⟩
  · rw [step_of_legal hw hd, ht]
    rfl
  · rw [step_of_legal hw hd, hr]
    rfl
  · simp only [step, hnone]

end Sys2Proof
end

section
/-! The register table (spec/10_state.md section 3), the fields of CTRL, STATUS and XSEL at their bits, and the registers after
SELECT (spec/42_geometry_and_select.md R156, R158). -/

namespace Sys2Proof.Machine

open Sys2Proof.Claims

theorem regIndex_of_mem_registerTable : ∀ row ∈ registerTable, regIndex row.2 = row.1 := by decide

theorem regIndex_mem_registerTable (r : Reg) : (regIndex r, r) ∈ registerTable := by cases r <;> decide

theorem mem_registerTable_iff (ra : BitVec 8) (r : Reg) : (ra, r) ∈ registerTable ↔ regIndex r = ra := by
  constructor
  · exact regIndex_of_mem_registerTable (ra, r)
  · rintro rfl
    exact regIndex_mem_registerTable r

theorem xselFlip_eq_getLsbD (f : RegFile) : xselFlip f = f.xsel.getLsbD 2 := bits_beq_one f.xsel 2

/-- Settles O26: the table lists each register once with its index, and a field of one bit is that bit. -/
theorem registerIndicesHaveNoAliases : Obligations.RegisterIndicesHaveNoAliases := by
  unfold Obligations.RegisterIndicesHaveNoAliases
  refine ⟨rfl, regIndex_of_mem_registerTable, fun r => ?_, fun _ _ h => regIndex_injective h, fun ra r => ?_, fun f => ?_,
    rfl⟩
  · exact List.mem_map.mpr ⟨_, regIndex_mem_registerTable r, rfl⟩
  · rw [regOfIndex_eq_some, mem_registerTable_iff]
  · exact ⟨ctrlNative_eq_getLsbD f, ctrlStackedReq_eq_getLsbD f, bits_beq_one f.ctrl 2, rfl, rfl, bits_beq_one f.status 3,
      bits_beq_one f.status 4, bits_beq_one f.status 5, bits_beq_one f.status 6, rfl, rfl, xselFlip_eq_getLsbD f⟩

/-- `sel + 4 * flip` has `sel` in its bits 1:0 and `flip` in its bit 2 (R159). -/
theorem fields_of_sel_add_flip (t : Transcoder) (flip : Bool) :
    transcoderOf (bits (t.code + (if flip then 4 else 0)) 0 2) = some t ∧
      (bits (t.code + (if flip then 4 else 0)) 2 1 == 1) = flip := by
  cases t <;> cases flip <;> decide

theorem transcoderOf_runSelect (b : Bool) (f : RegFile) :
    transcoderOf (xselSel (runSelect b f)) = some (selectTranscoder f.cFmt f.pmode) :=
  (fields_of_sel_add_flip _ _).1

theorem xselFlip_runSelect (b : Bool) (f : RegFile) :
    xselFlip (runSelect b f) = flipBit b (selectTranscoder f.cFmt f.pmode) f.cFmt :=
  (fields_of_sel_add_flip _ _).2

/-- Settles O34: SELECT writes the two fields it computes, and reads them back. -/
theorem flipExactlyForBgr32Blits : Obligations.FlipExactlyForBgr32Blits := by
  unfold Obligations.FlipExactlyForBgr32Blits
  intro b f
  rw [xselFlip_runSelect, flipBit_iff]
  exact ⟨transcoderOf_runSelect b f, Iff.rfl⟩

end Sys2Proof.Machine
end

section
/-! The invariant of a command boundary where every register is 0 (spec/10_state.md R49, 70_reset_and_hazards.md R260). -/

namespace Sys2Proof.Machine

open Sys2Proof.Claims Sys2Proof.Safety

/-- The ledger says of registers that hold nothing that nothing is held. -/
theorem heldBy_eq_empty {f : RegFile} (hengine : haveEngine f = false) (hctx : haveCtx f = false)
    (hnode : haveNode f = false) (hframe : haveFrame f = false) : heldBy f = Ledger.empty := by
  simp [heldBy, Ledger.empty, hengine, hctx, hnode, hframe]

/-- With `STATUS`, the resolved registers and the handles 0 only CTRL is left to check: a boundary in the phase UNINIT. -/
theorem boundaryRegisters_of_cleared (b : Bool) {f : RegFile} (hctrl : f.ctrl &&& 0x0000FF07 = f.ctrl)
    (hstatus : f.status = 0) (hdiag : f.diag = 0) (hcfmt : f.cFmt = 0) (hpmode : f.pmode = 0) (hxsel : f.xsel = 0)
    (hhandles : f.ctxH = 0 ∧ f.nodeH = 0 ∧ f.frameH = 0) : BoundaryRegisters b f := by
  obtain ⟨hphase, hengine, hctx, hnode, hframe, herr⟩ := statusFields_of_status_eq_zero f hstatus
  obtain ⟨hctxH, hnodeH, hframeH⟩ := hhandles
  have huninit : ∀ p : Phase, p ≠ .uninit → phaseBits f ≠ p.code := fun p hp h =>
    hp (Phase.code_injective (h.symm.trans hphase))
  refine ⟨⟨hctrl, ?_, ?_, ?_, ?_, .inl hxsel⟩, .inl hphase, ⟨?_, fun _ => herr, fun _ => hdiag⟩, hframe, hframeH, ?_, ?_⟩
  · simp [hstatus]
  · simp [hstatus]
  · simp [hcfmt]
  · simp [hpmode]
  · exact fun h => absurd h (huninit .failed (by decide))
  · exact fun _ => ⟨hengine, hctx, hnode, hctxH, hnodeH⟩
  · exact fun h => absurd h (huninit .ready (by decide))

theorem boundaryRegisters_zero (b : Bool) : BoundaryRegisters b RegFile.zero :=
  boundaryRegisters_of_cleared b rfl rfl rfl rfl rfl rfl ⟨rfl, rfl, rfl⟩

/-- Registers all 0 and an empty trace: nothing obtained, nothing held. -/
theorem inv_of_zero {s : State} (hmem : s.mem.wf) (hregs : s.regs = RegFile.zero) (htrace : s.trace = []) : Inv s := by
  obtain ⟨-, hengine, hctx, hnode, hframe, -⟩ := statusFields_of_status_eq_zero RegFile.zero rfl
  refine ⟨hmem, hregs ▸ boundaryRegisters_zero _, ?_⟩
  rw [TraceBalanced, htrace, hregs, heldBy_eq_empty hengine hctx hnode hframe]
  rfl

/-- Settles O15: the reset state has every register 0, an empty trace and an empty memory. -/
theorem resetMeetsTheBoundaryInvariant : Obligations.ResetMeetsTheBoundaryInvariant := by
  unfold Obligations.ResetMeetsTheBoundaryInvariant
  exact inv_of_zero Memory.wf_nil rfl rfl

/-- Settles O57: the reset input leaves the registers and lists of the reset state and keeps the memory. -/
theorem resetInputClearsTheRegisters : Obligations.ResetInputClearsTheRegisters := by
  unfold Obligations.ResetInputClearsTheRegisters
  refine fun s => ⟨RegFile.get_zero, platformReset_trace s, platformReset_responses s, platformReset_mem s, fun hmem => ?_⟩
  exact inv_of_zero hmem (platformReset_regs s) (platformReset_trace s)

end Sys2Proof.Machine
end

section
/-! The pseudo-instructions PREP and SETRATE as runs of their commands (spec/30_encoding.md R101). -/

namespace Sys2Proof.Machine

open Sys2Proof.Claims Sys2Proof.Safety

theorem runInstrs_cons_of_next {i : Instr} {s t : State} (rest : List Instr) (h : exec i s = .next t) :
    runInstrs (i :: rest) s = runInstrs rest t := by
  simp only [runInstrs, h]

/-- Settles O58: the three commands one after the other, none of which touches STATUS. -/
theorem prepResolvesTheRegisters : Obligations.PrepResolvesTheRegisters := by
  unfold Obligations.PrepResolvesTheRegisters
  intro s hidle
  have hmap : exec .map s = .next (answered 0 [] { s with regs := runMap s.regs }) := by
    rw [exec_map_of_idle hidle, runMap_eq]
  rw [expand, runInstrs_cons_of_next _ hmap, runInstrs_cons_of_next _ (exec_resolve_of_idle ?_),
    runInstrs_cons_of_next _ (exec_select_of_idle ?_)]
  · rfl
  · exact hidle
  · exact hidle

/-- The values of a list stored in its registers, the first one first. -/
def setRegs (f : RegFile) (l : List (Reg × Int)) : RegFile := l.foldl (fun g p => g.set p.1 (u32 p.2)) f

theorem status_set {r : Reg} (hr : r ∉ readOnlyRegs) (f : RegFile) (v : Word) : (f.set r v).status = f.status := by
  have hne : Reg.status ≠ r := fun h => hr (h ▸ by decide)
  exact (f.get_set r .status v).trans (if_neg hne)

/-- A run of SETR, when idle, on registers the host may write; CTRL apart, no value is masked (R121). -/
theorem runInstrs_asmSet (l : List (Reg × Int)) (hl : ∀ p ∈ l, p.1 ∉ readOnlyRegs ∧ p.1 ≠ .ctrl) {s : State}
    (hidle : phaseBits s.regs ≠ Phase.ready.code) :
    ∃ t, runInstrs (l.map fun p => asmSet p.1 p.2) s = .next t ∧ t.regs = setRegs s.regs l ∧ t.mem = s.mem ∧
      t.trace = s.trace := by
  induction l generalizing s with
  | nil => exact ⟨s, rfl, rfl, rfl, rfl⟩
  | cons p l ih =>
    obtain ⟨hwritable, hctrl⟩ := hl p List.mem_cons_self
    have hv : hostValue p.1 (u32 p.2) = u32 p.2 := if_neg hctrl
    have hexec := exec_setr_of_writable (u32 p.2) hidle hwritable
    rw [hv] at hexec
    have hidle' : phaseBits (s.regs.set p.1 (u32 p.2)) ≠ Phase.ready.code := by
      rwa [phaseBits, status_set hwritable]
    obtain ⟨t, ht, hregs, hmem, htrace⟩ := ih (fun q hq => hl q (List.mem_cons_of_mem p hq))
      (s := answered 0 [] { s with regs := s.regs.set p.1 (u32 p.2) }) hidle'
    exact ⟨t, (runInstrs_cons_of_next _ hexec).trans ht, hregs, hmem, htrace⟩

theorem u32_toNat_of_lt {n : Nat} (h : n < 2 ^ 32) : (u32 (n : Int)).toNat = n := by
  rw [u32, BitVec.ofInt_natCast, BitVec.toNat_ofNat, Nat.mod_eq_of_lt h]

/-- A 64-bit number put together from the two registers its halves were written to (10_state.md R34). -/
theorem toNat_append_u32 {n : Nat} (h : n < 2 ^ 64) :
    (u32 ((n / 2 ^ 32 : Nat) : Int) ++ u32 ((n % 2 ^ 32 : Nat) : Int)).toNat = n := by
  rw [toNat_append_eq_add, u32_toNat_of_lt (by omega), u32_toNat_of_lt (by omega)]
  omega

/-- The registers of SETRATE with their values (R101). -/
def rateValues (frames : Int) (num den : Nat) : List (Reg × Int) :=
  [(.pFrames, frames), (.pFpsnumLo, (num % 2 ^ 32 : Nat)), (.pFpsnumHi, (num / 2 ^ 32 : Nat)),
    (.pFpsdenLo, (den % 2 ^ 32 : Nat)), (.pFpsdenHi, (den / 2 ^ 32 : Nat))]

theorem get_setRegs_of_notMem (l : List (Reg × Int)) (f : RegFile) (r : Reg) (hr : r ∉ l.map Prod.fst) :
    (setRegs f l).get r = f.get r := by
  induction l generalizing f with
  | nil => rfl
  | cons p l ih =>
    rw [List.map_cons, List.mem_cons, not_or] at hr
    exact (ih _ hr.2).trans ((f.get_set p.1 r _).trans (if_neg hr.1))

/-- Settles O59: the two 64-bit operands are below 2^64, so their halves fit the registers. -/
theorem setrateLoadsTheRate : Obligations.SetrateLoadsTheRate := by
  unfold Obligations.SetrateLoadsTheRate
  intro s frames num den hidle hwf
  simp only [Asm.wellFormed, rateFits, Bool.and_eq_true, decide_eq_true_eq] at hwf
  obtain ⟨⟨-, hnum⟩, hden⟩ := hwf
  have hwritable : ∀ p ∈ rateValues frames num den, p.1 ∉ readOnlyRegs ∧ p.1 ≠ .ctrl := by
    simp only [rateValues, List.forall_mem_cons]
    decide
  obtain ⟨t, ht, hregs, hmem, htrace⟩ := runInstrs_asmSet (rateValues frames num den) hwritable hidle
  refine ⟨t, ht, ?_, ?_, ?_, fun r hr => ?_, hmem, htrace⟩ <;> rw [hregs]
  · rfl
  · exact toNat_append_u32 hnum
  · exact toNat_append_u32 hden
  · exact get_setRegs_of_notMem _ _ r hr

end Sys2Proof.Machine
end

section
/-! OPEN by the answers it gets (spec/44_session.md R201 to R207): one equation for the calls, the registers and the response
of every way it can end, in every state. -/

namespace Sys2Proof.Machine

open Sys2Proof.Claims Sys2Proof.Safety

/-! ### The five checks on a stored descriptor (R204, R205) -/

theorem signed32_eq_toInt (v : Word) : signed32 v = v.toInt := by
  rw [signed32, BitVec.toInt_eq_toNat_cond]
  have hv := v.isLt
  split <;> split <;> omega

theorem extract_halves_append (v : BitVec 64) : v.extractLsb' 32 32 ++ v.extractLsb' 0 32 = v := by
  have hv := v.isLt
  apply BitVec.eq_of_toNat_eq
  rw [toNat_append_eq_add]
  simp only [BitVec.extractLsb'_toNat, Nat.shiftRight_eq_div_pow]
  omega

theorem extract_high_ne_zero_iff (v : BitVec 64) : v.extractLsb' 32 32 ≠ 0 ↔ 2 ^ 32 ≤ v.toNat := by
  have hv := v.isLt
  have hzero : (0 : Word).toNat = 0 := rfl
  rw [Ne, ← BitVec.toNat_inj, BitVec.extractLsb'_toNat, Nat.shiftRight_eq_div_pow, hzero]
  omega

theorem ConsumerFormat.code_eq_zero_iff (x : ConsumerFormat) : x.code = 0 ↔ x = .unsupported := by
  cases x <;> decide

/-- The checks on the registers of a stored descriptor are those on the descriptor; only the fifth one writes, and what it
writes is `C_FMT` (R205). -/
theorem validate_storeDescriptor (d : Descriptor) (f : RegFile) :
    validate (storeDescriptor d f) = (descriptorError (f.ctrl.getLsbD 0) d,
      if descriptorError (f.ctrl.getLsbD 0) d = none ∨ descriptorError (f.ctrl.getLsbD 0) d = some .unsupportedFormat then
        runMap (storeDescriptor d f) else storeDescriptor d f) := by
  have hframes : signed32 (storeDescriptor d f).pFrames ≤ 0 ↔ d.frames.toInt ≤ 0 := by rw [signed32_eq_toInt]; rfl
  have hnum : fpsNum (storeDescriptor d f) = d.fpsnum := extract_halves_append d.fpsnum
  have hden : fpsDen (storeDescriptor d f) = d.fpsden := extract_halves_append d.fpsden
  have hhigh : ((storeDescriptor d f).pFpsnumHi ≠ 0 ∨ (storeDescriptor d f).pFpsdenHi ≠ 0) ↔
      (2 ^ 32 ≤ d.fpsnum.toNat ∨ 2 ^ 32 ≤ d.fpsden.toNat) :=
    or_congr (extract_high_ne_zero_iff d.fpsnum) (extract_high_ne_zero_iff d.fpsden)
  have hmap : (runMap (storeDescriptor d f)).cFmt = 0 ↔ mapFormat d.fmt (f.ctrl.getLsbD 0) = .unsupported := by
    rw [← ConsumerFormat.code_eq_zero_iff, runMap_eq]
    rfl
  have hshape : ((storeDescriptor d f).pWidth = 0 ∨ (storeDescriptor d f).pHeight = 0 ∨ (storeDescriptor d f).pFmt = 0) ↔
      (d.width = 0 ∨ d.height = 0 ∨ d.fmt = 0) := Iff.rfl
  unfold validate descriptorError
  simp only [hframes, hnum, hden, hhigh, hmap, hshape]
  split_ifs <;> simp_all

/-! ### What the environment answers -/

/-- The answers one OPEN gets, up to the one that decides: no engine; no script, with its diagnostic; no output node; or a
context, a node and a descriptor (R202, R204). -/
inductive OpenAnswers where
  | noEngine
  | noScript (diag : Word)
  | noNode (ctx : Word)
  | source (ctx node : Word) (d : Descriptor)

/-- Where the environment has an answer prepared, it is the one given. -/
def OpenAnswers.Prepared (e : Environment) : OpenAnswers → Prop
  | .noEngine => ∀ b, e.initializeEngine.head? = some b → b = false
  | .noScript diag => (∀ b, e.initializeEngine.head? = some b → b = true) ∧
      ∀ r, e.evaluate.head? = some r → r = .err diag
  | .noNode c => (∀ b, e.initializeEngine.head? = some b → b = true) ∧ (∀ r, e.evaluate.head? = some r → r = .ok c) ∧
      ∀ r, e.getOutputNode.head? = some r → r = none
  | .source c nd d => (∀ b, e.initializeEngine.head? = some b → b = true) ∧
      (∀ r, e.evaluate.head? = some r → r = .ok c) ∧ (∀ r, e.getOutputNode.head? = some r → r = some nd) ∧
      ∀ x, e.getFormatDescriptor.head? = some x → x = d

/-- The calls up to the deciding answer, with their arguments from the registers. -/
def OpenAnswers.calls (f : RegFile) : OpenAnswers → List EnvEvent
  | .noEngine => [.initializeEngine false]
  | .noScript diag => [.initializeEngine true, .evaluate f.scriptRef (f.ctrl.getLsbD 2) (.err diag)]
  | .noNode c => [.initializeEngine true, .evaluate f.scriptRef (f.ctrl.getLsbD 2) (.ok c),
      .getOutputNode c (f.ctrl.extractLsb' 8 8) none]
  | .source c nd d => openCalls f c nd d

/-- Engine and context in the registers after OPEN's first writes (R201, R202). -/
def heldCtx (c : Word) (f : RegFile) : RegFile := setHaveCtx true { setHaveEngine true (clearForOpen f) with ctxH := c }

/-- Engine, context and node in the registers (R202). -/
def heldNode (c nd : Word) (f : RegFile) : RegFile := setHaveNode true { heldCtx c f with nodeH := nd }

/-- The registers when the deciding answer is in. -/
def OpenAnswers.acquired (f : RegFile) : OpenAnswers → RegFile
  | .noEngine => clearForOpen f
  | .noScript diag => { setHaveEngine true (clearForOpen f) with diag := diag }
  | .noNode c => heldCtx c f
  | .source c nd d => storeDescriptor d (heldNode c nd f)

/-- The error of the construction, if it fails (R202, R205). -/
def OpenAnswers.error (native : Bool) : OpenAnswers → Option ErrCode
  | .noEngine => some .engineInit
  | .noScript _ => some .scriptEval
  | .noNode _ => some .noOutputNode
  | .source _ _ d => descriptorError native d

/-- The registers `Fail(e)` leaves (R207). -/
def unwoundRegs (e : ErrCode) (f : RegFile) : RegFile := setPhase .failed (setErr e.code (clearResolved (releasedRegs f)))

/-- The registers `MakeReady` leaves on a validated descriptor (R205, R206). -/
def sessionRegs (bgr32Flip : Bool) (f : RegFile) : RegFile :=
  setPhase .ready (makeReady bgr32Flip (setPhase .validated (runMap f)))

/-- The state OPEN ends in, given the answers it gets. -/
def OpenAnswers.final (w : OpenAnswers) (s : State) (e : Environment) : State :=
  match w.error (s.regs.ctrl.getLsbD 0) with
  | some err => raise err (afterEvents s (unwoundRegs err (w.acquired s.regs))
      (w.calls s.regs ++ releaseCalls (w.acquired s.regs)) e)
  | none => respondOk [] (afterEvents s (sessionRegs s.platform.bgr32Flip (w.acquired s.regs)) (w.calls s.regs) e)

theorem OpenAnswers.final_of_error {w : OpenAnswers} {s : State} {err : ErrCode}
    (h : w.error (s.regs.ctrl.getLsbD 0) = some err) (e : Environment) :
    w.final s e = raise err (afterEvents s (unwoundRegs err (w.acquired s.regs))
      (w.calls s.regs ++ releaseCalls (w.acquired s.regs)) e) := by
  simp only [final, h]

theorem OpenAnswers.final_of_none {w : OpenAnswers} {s : State} (h : w.error (s.regs.ctrl.getLsbD 0) = none)
    (e : Environment) :
    w.final s e = respondOk [] (afterEvents s (sessionRegs s.platform.bgr32Flip (w.acquired s.regs)) (w.calls s.regs) e) := by
  simp only [final, h]

/-! ### OPEN -/

/-- The releases of `Fail(e)` with the three HAVE bits read beforehand: no release touches a later one's bit. -/
def releasedWith (node ctx engine : Bool) (f : RegFile) : RegFile :=
  let f := if node then { setHaveNode false f with nodeH := 0 } else f
  let f := if ctx then { setHaveCtx false f with ctxH := 0 } else f
  if engine then setHaveEngine false f else f

theorem releasedRegs_eq_releasedWith (f : RegFile) :
    releasedRegs f = releasedWith (haveNode f) (haveCtx f) (haveEngine f) f := by
  obtain ⟨hctx, hengine, -⟩ := releaseNode_keeps f (haveNode f)
  simp only [releasedRegs, releasedWith, hctx, hengine, releaseCtx_keeps]

/-- `C_FMT` is cleared by `Fail(e)` whatever the fifth check wrote. -/
theorem unwoundRegs_runMap (e : ErrCode) (f : RegFile) : unwoundRegs e (runMap f) = unwoundRegs e f := by
  have hwith : ∀ node ctx engine, clearResolved (releasedWith node ctx engine (runMap f)) =
      clearResolved (releasedWith node ctx engine f) := by
    intro node ctx engine
    cases node <;> cases ctx <;> cases engine <;> rfl
  rw [unwoundRegs, unwoundRegs, releasedRegs_eq_releasedWith, releasedRegs_eq_releasedWith]
  exact congrArg (fun g => setPhase .failed (setErr e.code g)) (hwith _ _ _)

/-- `Fail(e)` after the calls of a construction; what the fifth check wrote makes no difference. -/
theorem failOpen_afterEvents (err : ErrCode) (s : State) {f g : RegFile} (calls : List EnvEvent) (e : Environment)
    (h : f = g ∨ f = runMap g) :
    failOpen err (afterEvents s f calls e) =
      raise err (afterEvents s (unwoundRegs err g) (calls ++ releaseCalls g) e) := by
  rw [failOpen_eq, afterEvents_afterEvents, afterEvents_regs, afterEvents_env, ← unwoundRegs]
  rcases h with rfl | rfl
  · rfl
  · rw [unwoundRegs_runMap]
    rfl

/-- OPEN whose acquisition fails. -/
theorem openBody_of_acquire_error {s : State} {err : ErrCode} {g : RegFile} {calls : List EnvEvent} {e : Environment}
    (h : acquire (onRegs clearForOpen s) = .error (err, afterEvents (onRegs clearForOpen s) g calls e)) :
    openBody s = raise err (afterEvents s (unwoundRegs err g) (calls ++ releaseCalls g) e) := by
  simp only [openBody, h]
  exact failOpen_afterEvents err s calls e (.inl rfl)

/-- OPEN whose acquisition succeeds, by the checks on the descriptor it then gets. -/
theorem openBody_of_acquire_ok {s : State} {g : RegFile} {calls : List EnvEvent} {e : Environment}
    (h : acquire (onRegs clearForOpen s) = .ok (afterEvents (onRegs clearForOpen s) g calls e)) :
    ∃ d e', (∀ x, e.getFormatDescriptor.head? = some x → x = d) ∧
      openBody s = match descriptorError (g.ctrl.getLsbD 0) d with
        | some err => raise err (afterEvents s (unwoundRegs err (storeDescriptor d g))
            (calls ++ [.getFormatDescriptor g.nodeH d] ++ releaseCalls (storeDescriptor d g)) e')
        | none => respondOk [] (afterEvents s (sessionRegs s.platform.bgr32Flip (storeDescriptor d g))
            (calls ++ [.getFormatDescriptor g.nodeH d]) e') := by
  obtain ⟨d, e', hload, hprep⟩ := loadDescriptor_cases (afterEvents (onRegs clearForOpen s) g calls e)
  refine ⟨d, e', hprep, ?_⟩
  rw [afterEvents_afterEvents, afterEvents_regs] at hload
  have hregs : ∀ f : RegFile, { afterEvents (onRegs clearForOpen s) (storeDescriptor d g)
      (calls ++ [.getFormatDescriptor g.nodeH d]) e' with regs := f } =
        afterEvents s f (calls ++ [.getFormatDescriptor g.nodeH d]) e' := fun _ => rfl
  simp only [openBody, h, hload, afterEvents_regs, validate_storeDescriptor, hregs]
  cases hd : descriptorError (g.ctrl.getLsbD 0) d with
  | none =>
    simp only [true_or, if_true]
    rfl
  | some err =>
    have hwritten := ite_eq_or_eq (some err = none ∨ some err = some .unsupportedFormat) (runMap (storeDescriptor d g))
      (storeDescriptor d g)
    simp only
    exact failOpen_afterEvents err s _ e' hwritten.symm

/-- Everything OPEN can do after its phase check, by the answers it gets. -/
theorem openBody_cases (s : State) : ∃ (w : OpenAnswers) (e : Environment), w.Prepared s.env ∧ openBody s = w.final s e := by
  have hinline : ctrlInline (clearForOpen s.regs) = s.regs.ctrl.getLsbD 2 := bits_beq_one s.regs.ctrl 2
  rcases acquire_cases (onRegs clearForOpen s) with ⟨e, ha, hp⟩ | ⟨d, e, ha, hp⟩ | ⟨c, e, ha, hp⟩ | ⟨c, nd, e, ha, hfmt, hp⟩ <;>
    simp only [onRegs_regs, hinline] at ha
  · exact ⟨.noEngine, e, hp, openBody_of_acquire_error ha⟩
  · exact ⟨.noScript d, e, hp, openBody_of_acquire_error ha⟩
  · exact ⟨.noNode c, e, hp, openBody_of_acquire_error ha⟩
  · obtain ⟨d, e', hd, hbody⟩ := openBody_of_acquire_ok ha
    rw [hfmt] at hd
    obtain ⟨hengine, hctx, hnode⟩ := hp
    exact ⟨.source c nd d, e', ⟨hengine, hctx, hnode, hd⟩, hbody⟩

end Sys2Proof.Machine
end

section
/-! The fields of STATUS together (spec/10_state.md R25), and with them the registers OPEN leaves when it starts at a command
boundary outside READY: those of a failed construction (44_session.md R207) or of a session (R206). -/

namespace Sys2Proof.Machine

open Sys2Proof.Claims Sys2Proof.Safety

/-- A STATUS word by its fields, with no frame held and the reserved bits 0. -/
structure StatusIs (w : Word) (p : Phase) (engine ctx node : Bool) (e : BitVec 8) : Prop where
  phase : bits w 0 3 = p.code
  engine : (bits w 3 1 == 1) = engine
  ctx : (bits w 4 1 == 1) = ctx
  node : (bits w 5 1 == 1) = node
  frame : (bits w 6 1 == 1) = false
  reserved : bits w 7 1 = 0
  err : bits w 8 8 = e
  high : bits w 16 16 = 0

namespace StatusIs

variable {f : RegFile} {p : Phase} {engine ctx node : Bool} {e : BitVec 8}

/-- The fields of STATUS are all there is to it. -/
theorem word_unique {v w : Word} (hv : StatusIs v p engine ctx node e) (hw : StatusIs w p engine ctx node e) : v = w := by
  have hbit {x y : BitVec 1} {b : Bool} (hx : (x == 1) = b) (hy : (y == 1) = b) : x = y := by
    subst hx
    revert x y
    decide
  exact status_ext v w (hv.phase.trans hw.phase.symm) (hbit hv.engine hw.engine) (hbit hv.ctx hw.ctx)
    (hbit hv.node hw.node) (hbit hv.frame hw.frame) (hv.reserved.trans hw.reserved.symm) (hv.err.trans hw.err.symm)
    (hv.high.trans hw.high.symm)

theorem setPhase (h : StatusIs f.status p engine ctx node e) (q : Phase) :
    StatusIs (Machine.setPhase q f).status q engine ctx node e :=
  ⟨phaseBits_setPhase f q, (haveEngine_setPhase f q).trans h.engine, (haveCtx_setPhase f q).trans h.ctx,
    (haveNode_setPhase f q).trans h.node, (haveFrame_setPhase f q).trans h.frame,
    (setPhase_reserved f q).1.trans h.reserved, (errBits_setPhase f q).trans h.err, (setPhase_reserved f q).2.trans h.high⟩

theorem setErr (h : StatusIs f.status p engine ctx node e) (e' : BitVec 8) :
    StatusIs (Machine.setErr e' f).status p engine ctx node e' :=
  ⟨(phaseBits_setErr f e').trans h.phase, (haveEngine_setErr f e').trans h.engine, (haveCtx_setErr f e').trans h.ctx,
    (haveNode_setErr f e').trans h.node, (haveFrame_setErr f e').trans h.frame,
    (setErr_reserved f e').1.trans h.reserved, errBits_setErr f e', (setErr_reserved f e').2.trans h.high⟩

theorem setHaveEngine (h : StatusIs f.status p engine ctx node e) (b : Bool) :
    StatusIs (Machine.setHaveEngine b f).status p b ctx node e :=
  ⟨(phaseBits_setHaveEngine f b).trans h.phase, haveEngine_setHaveEngine f b, (haveCtx_setHaveEngine f b).trans h.ctx,
    (haveNode_setHaveEngine f b).trans h.node, (haveFrame_setHaveEngine f b).trans h.frame,
    (setHaveEngine_reserved f b).1.trans h.reserved, (errBits_setHaveEngine f b).trans h.err,
    (setHaveEngine_reserved f b).2.trans h.high⟩

theorem setHaveCtx (h : StatusIs f.status p engine ctx node e) (b : Bool) :
    StatusIs (Machine.setHaveCtx b f).status p engine b node e :=
  ⟨(phaseBits_setHaveCtx f b).trans h.phase, (haveEngine_setHaveCtx f b).trans h.engine, haveCtx_setHaveCtx f b,
    (haveNode_setHaveCtx f b).trans h.node, (haveFrame_setHaveCtx f b).trans h.frame,
    (setHaveCtx_reserved f b).1.trans h.reserved, (errBits_setHaveCtx f b).trans h.err,
    (setHaveCtx_reserved f b).2.trans h.high⟩

theorem setHaveNode (h : StatusIs f.status p engine ctx node e) (b : Bool) :
    StatusIs (Machine.setHaveNode b f).status p engine ctx b e :=
  ⟨(phaseBits_setHaveNode f b).trans h.phase, (haveEngine_setHaveNode f b).trans h.engine,
    (haveCtx_setHaveNode f b).trans h.ctx, haveNode_setHaveNode f b, (haveFrame_setHaveNode f b).trans h.frame,
    (setHaveNode_reserved f b).1.trans h.reserved, (errBits_setHaveNode f b).trans h.err,
    (setHaveNode_reserved f b).2.trans h.high⟩

/-- A STATUS of idle registers that fail with `e`: PHASE 6, ERR `e`. -/
theorem failed (e : ErrCode) : StatusIs (BitVec.ofNat 32 (e.code.toNat * 256 + 6)) .failed false false false e.code := by
  cases e <;> exact ⟨rfl, rfl, rfl, rfl, rfl, rfl, rfl, rfl⟩

/-- The STATUS of a session: PHASE 2, engine, context and node held. -/
theorem session : StatusIs 0x3A .ready true true true 0 := ⟨rfl, rfl, rfl, rfl, rfl, rfl, rfl, rfl⟩

end StatusIs

/-- At a boundary outside READY nothing is held. -/
theorem statusIs_of_idle {b : Bool} {f : RegFile} (hb : BoundaryRegisters b f) (hidle : phaseBits f ≠ Phase.ready.code) :
    ∃ p, (p = .uninit ∨ p = .failed) ∧ StatusIs f.status p false false false (errBits f) := by
  obtain ⟨⟨-, h7, h16, -⟩, hphase, -, hframe, -, hown, -⟩ := hb
  obtain ⟨hengine, hctx, hnode, -, -⟩ := hown hidle
  rcases hphase with h | h | h
  · exact ⟨.uninit, .inl rfl, h, hengine, hctx, hnode, hframe, h7, rfl, h16⟩
  · exact absurd h hidle
  · exact ⟨.failed, .inr rfl, h, hengine, hctx, hnode, hframe, h7, rfl, h16⟩

/-! ### The registers of a failed construction -/

/-- The releases write STATUS and the handles they release. -/
theorem releasedWith_eq (node ctx engine : Bool) (f : RegFile) :
    releasedWith node ctx engine f = { f with status := (releasedWith node ctx engine f).status,
                                              ctxH := if ctx then 0 else f.ctxH, nodeH := if node then 0 else f.nodeH } := by
  cases node <;> cases ctx <;> cases engine <;> rfl

theorem statusIs_releasedWith {f : RegFile} {p : Phase} {engine ctx node : Bool} {e : BitVec 8}
    (h : StatusIs f.status p engine ctx node e) :
    StatusIs (releasedWith node ctx engine f).status p false false false e := by
  have hnode : StatusIs (if node then { setHaveNode false f with nodeH := 0 } else f).status p engine ctx false e := by
    cases node
    · exact h
    · exact h.setHaveNode false
  have hctx : StatusIs (releasedWith node ctx false f).status p engine false false e := by
    cases ctx
    · exact hnode
    · exact hnode.setHaveCtx false
  cases engine
  · exact hctx
  · exact hctx.setHaveEngine false

/-- `Fail(e)` on registers that say what is held, with no frame and no stale handle. -/
theorem unwoundRegs_eq_failedRegs (err : ErrCode) {f : RegFile} {p : Phase} {engine ctx node : Bool} {e : BitVec 8}
    (h : StatusIs f.status p engine ctx node e) (hctx : ctx = false → f.ctxH = 0) (hnode : node = false → f.nodeH = 0)
    (hframe : f.frameH = 0) (hdst : f.dstH = 0) : unwoundRegs err f = failedRegs err f.diag f := by
  have hctxH : (if ctx then 0 else f.ctxH) = 0 := by cases ctx <;> simp [hctx]
  have hnodeH : (if node then 0 else f.nodeH) = 0 := by cases node <;> simp [hnode]
  have hreleased : releasedRegs f =
      { f with status := (releasedWith node ctx engine f).status, ctxH := 0, nodeH := 0 } := by
    rw [releasedRegs_eq_releasedWith, show haveNode f = node from h.node, show haveCtx f = ctx from h.ctx,
      show haveEngine f = engine from h.engine]
    exact (releasedWith_eq node ctx engine f).trans (by rw [hctxH, hnodeH])
  have hstatusIs : StatusIs (unwoundRegs err f).status .failed false false false err.code := by
    have hcleared : StatusIs (clearResolved (releasedRegs f)).status p false false false e := by
      rw [hreleased]
      exact statusIs_releasedWith h
    exact (hcleared.setErr err.code).setPhase .failed
  have hothers : unwoundRegs err f =
      { failedRegs err f.diag f with status := (unwoundRegs err f).status, frameH := f.frameH, dstH := f.dstH } := by
    rw [unwoundRegs, hreleased]
    rfl
  rw [hothers, hstatusIs.word_unique (StatusIs.failed err), hframe, hdst]
  rfl

/-! ### The registers of a session -/

/-- `MakeReady` on a stored descriptor, STATUS apart: `C_FMT` by `Map`, then what RESOLVE and SELECT compute. -/
theorem sessionRegs_eq (b : Bool) (d : Descriptor) (f : RegFile) :
    sessionRegs b (storeDescriptor d f) =
      { readyRegs b f.ctxH f.nodeH d f with status := (sessionRegs b (storeDescriptor d f)).status, diag := f.diag,
                                            frameH := f.frameH, dstH := f.dstH } := by
  have hflip : ∀ sel c, (if flipBit b sel c = true then 4 else 0 : Word) = if sel = .blit ∧ c = 14 ∧ b = true then 4 else 0 :=
    fun sel c => if_congr (flipBit_iff b sel c) rfl rfl
  unfold sessionRegs makeReady runSelect
  simp only [hflip]
  rw [runMap_eq]
  unfold runResolve
  simp only [ctrlStackedReq_eq_getLsbD]
  rfl

/-! ### The registers and calls of each way OPEN ends, from a boundary outside READY -/

section Boundary

variable {b : Bool} {f : RegFile} (hb : BoundaryRegisters b f) (hidle : phaseBits f ≠ Phase.ready.code)

include hb hidle

theorem statusIs_clearForOpen :
    ∃ p, StatusIs (clearForOpen f).status p false false false 0 := by
  obtain ⟨p, -, h⟩ := statusIs_of_idle hb hidle
  exact ⟨p, h.setErr 0⟩

theorem statusIs_heldCtx (c : Word) : ∃ p, StatusIs (heldCtx c f).status p true true false 0 := by
  obtain ⟨p, h⟩ := statusIs_clearForOpen hb hidle
  have hengine := h.setHaveEngine true
  exact ⟨p, StatusIs.setHaveCtx (f := { setHaveEngine true (clearForOpen f) with ctxH := c }) hengine true⟩

theorem statusIs_heldNode (c nd : Word) : ∃ p, StatusIs (heldNode c nd f).status p true true true 0 := by
  obtain ⟨p, h⟩ := statusIs_heldCtx hb hidle c
  exact ⟨p, StatusIs.setHaveNode (f := { heldCtx c f with nodeH := nd }) h true⟩

/-- The diagnostic a failed construction keeps (R202). -/
def OpenAnswers.diag : OpenAnswers → Word
  | .noScript d => d
  | _ => 0

/-- The registers with the descriptor that was loaded, if one was (R204). -/
def OpenAnswers.described (f : RegFile) : OpenAnswers → RegFile
  | .source _ _ d => storeDescriptor d f
  | _ => f

/-- The releases of what was acquired, in their order (R207). -/
def OpenAnswers.releases : OpenAnswers → List EnvEvent
  | .noEngine => []
  | .noScript _ => [.engineRelease]
  | .noNode c => [.releaseContext c, .engineRelease]
  | .source c nd _ => [.releaseNode nd, .releaseContext c, .engineRelease]

theorem unwoundRegs_acquired (err : ErrCode) (w : OpenAnswers) :
    unwoundRegs err (w.acquired f) = failedRegs err w.diag (w.described f) := by
  cases w with
  | noEngine =>
    obtain ⟨p, h⟩ := statusIs_clearForOpen hb hidle
    exact unwoundRegs_eq_failedRegs err h (fun _ => rfl) (fun _ => rfl) rfl rfl
  | noScript d =>
    obtain ⟨p, h⟩ := statusIs_clearForOpen hb hidle
    exact unwoundRegs_eq_failedRegs err (f := (OpenAnswers.noScript d).acquired f) (h.setHaveEngine true)
      (fun _ => rfl) (fun _ => rfl) rfl rfl
  | noNode c =>
    obtain ⟨p, h⟩ := statusIs_heldCtx hb hidle c
    exact unwoundRegs_eq_failedRegs err h (fun hc => nomatch hc) (fun _ => rfl) rfl rfl
  | source c nd d =>
    obtain ⟨p, h⟩ := statusIs_heldNode hb hidle c nd
    exact unwoundRegs_eq_failedRegs err (f := (OpenAnswers.source c nd d).acquired f) h (fun hc => nomatch hc)
      (fun hn => nomatch hn) rfl rfl

theorem releaseCalls_acquired (w : OpenAnswers) : releaseCalls (w.acquired f) = w.releases := by
  have hcalls {g : RegFile} {p : Phase} {engine ctx node : Bool} (h : StatusIs g.status p engine ctx node 0) :
      releaseCalls g = (if node then [.releaseNode g.nodeH] else []) ++ (if ctx then [.releaseContext g.ctxH] else []) ++
        (if engine then [.engineRelease] else []) := by
    rw [releaseCalls, show haveNode g = node from h.node, show haveCtx g = ctx from h.ctx,
      show haveEngine g = engine from h.engine]
  cases w with
  | noEngine =>
    obtain ⟨p, h⟩ := statusIs_clearForOpen hb hidle
    exact hcalls h
  | noScript d =>
    obtain ⟨p, h⟩ := statusIs_clearForOpen hb hidle
    exact hcalls (g := (OpenAnswers.noScript d).acquired f) (h.setHaveEngine true)
  | noNode c =>
    obtain ⟨p, h⟩ := statusIs_heldCtx hb hidle c
    exact hcalls h
  | source c nd d =>
    obtain ⟨p, h⟩ := statusIs_heldNode hb hidle c nd
    exact hcalls (g := (OpenAnswers.source c nd d).acquired f) h

theorem sessionRegs_acquired (flip : Bool) (c nd : Word) (d : Descriptor) :
    sessionRegs flip ((OpenAnswers.source c nd d).acquired f) = readyRegs flip c nd d f := by
  obtain ⟨p, h⟩ := statusIs_heldNode hb hidle c nd
  have hvalidated := StatusIs.setPhase (f := runMap (storeDescriptor d (heldNode c nd f))) h .validated
  have hready := StatusIs.setPhase (f := makeReady flip (setPhase .validated (runMap (storeDescriptor d (heldNode c nd f)))))
    hvalidated .ready
  calc sessionRegs flip (storeDescriptor d (heldNode c nd f))
      = { readyRegs flip c nd d f with status := (sessionRegs flip (storeDescriptor d (heldNode c nd f))).status } :=
        sessionRegs_eq flip d (heldNode c nd f)
    _ = readyRegs flip c nd d f := by
        rw [sessionRegs, hready.word_unique StatusIs.session]
        rfl

end Boundary

end Sys2Proof.Machine
end

section
/-! OPEN from a command boundary outside READY (spec/44_session.md sections 1, 2 and 6): the statements, by the answers it gets. -/

namespace Sys2Proof.Machine

open Sys2Proof.Claims Sys2Proof.Safety

/-! ### The ledger of a construction (R216 d, e) -/

theorem ledgerRun_append (l : Ledger) (a b : List EnvEvent) :
    ledgerRun l (a ++ b) = (ledgerRun l a).bind fun l' => ledgerRun l' b := by
  induction a generalizing l with
  | nil => rfl
  | cons e a ih =>
    rw [List.cons_append, ledgerRun, ledgerRun, Option.bind_assoc]
    exact congrArg (Option.bind (ledgerStep l e)) (funext ih)

/-- What the answers hand over. -/
def OpenAnswers.ledger : OpenAnswers → Ledger
  | .noEngine => Ledger.empty
  | .noScript _ => { Ledger.empty with engine := true }
  | .noNode c => { Ledger.empty with engine := true, ctx := some c }
  | .source c nd _ => { Ledger.empty with engine := true, ctx := some c, node := some nd }

theorem ledgerRun_openCalls (w : OpenAnswers) (f : RegFile) : ledgerRun Ledger.empty (w.calls f) = some w.ledger := by
  cases w <;> simp [OpenAnswers.calls, openCalls, OpenAnswers.ledger, ledgerRun, ledgerStep, Ledger.empty]

/-- The releases of a failed construction give back what the answers handed over. -/
theorem ledgerRun_releases (w : OpenAnswers) : ledgerRun w.ledger w.releases = some Ledger.empty := by
  cases w <;> simp [OpenAnswers.releases, OpenAnswers.ledger, ledgerRun, ledgerStep, Ledger.empty]

theorem heldBy_of_statusIs {f : RegFile} {p : Phase} {engine ctx node : Bool} {e : BitVec 8}
    (h : StatusIs f.status p engine ctx node e) :
    heldBy f = { engine := engine, ctx := if ctx then some f.ctxH else none, node := if node then some f.nodeH else none,
                 frame := none } := by
  simp only [heldBy, show haveEngine f = engine from h.engine, show haveCtx f = ctx from h.ctx,
    show haveNode f = node from h.node, show haveFrame f = false from h.frame, Bool.false_eq_true, if_false]

theorem heldBy_failedRegs (err : ErrCode) (diag : Word) (f : RegFile) : heldBy (failedRegs err diag f) = Ledger.empty :=
  heldBy_of_statusIs (f := failedRegs err diag f) (StatusIs.failed err)

theorem heldBy_readyRegs (flip : Bool) (c nd : Word) (d : Descriptor) (f : RegFile) :
    heldBy (readyRegs flip c nd d f) = (OpenAnswers.source c nd d).ledger :=
  heldBy_of_statusIs (f := readyRegs flip c nd d f) StatusIs.session

/-! ### The ways OPEN ends -/

theorem exec_openSession_of_idle {s : State} (h : phaseBits s.regs ≠ Phase.ready.code) :
    exec .openSession s = afterCalls s (openBody s) :=
  if_neg (by simp [inSession_of_phaseBits_ne h])

/-- A construction with an error, started at a boundary outside READY. -/
theorem OpenAnswers.final_failed {w : OpenAnswers} {s : State} {err : ErrCode} {b : Bool}
    (hb : BoundaryRegisters b s.regs) (hidle : phaseBits s.regs ≠ Phase.ready.code)
    (herr : w.error (s.regs.ctrl.getLsbD 0) = some err) (e : Environment) :
    w.final s e = raise err (afterEvents s (failedRegs err w.diag (w.described s.regs)) (w.calls s.regs ++ w.releases) e) := by
  rw [OpenAnswers.final_of_error herr, unwoundRegs_acquired hb hidle, releaseCalls_acquired hb hidle]

/-- What an OPEN that fails leaves. -/
theorem OpenAnswers.failed_effect {w : OpenAnswers} {s : State} {err : ErrCode} {b : Bool} {e : Environment}
    (hb : BoundaryRegisters b s.regs) (hidle : phaseBits s.regs ≠ Phase.ready.code)
    (herr : w.error (s.regs.ctrl.getLsbD 0) = some err) (hexec : exec .openSession s = .next (w.final s e)) :
    ∃ t, exec .openSession s = .next t ∧ t.regs = failedRegs err w.diag (w.described s.regs) ∧ t.mem = s.mem ∧
      t.trace = s.trace ++ (w.calls s.regs ++ w.releases) ∧
      t.responses = s.responses ++ [{ code := err.code, data := [] }] := by
  rw [OpenAnswers.final_failed hb hidle herr] at hexec
  exact ⟨_, hexec, rfl, rfl, rfl, rfl⟩

/-- A construction without an error, started at a boundary outside READY. -/
theorem OpenAnswers.final_ready {s : State} {c nd : Word} {d : Descriptor} {b : Bool}
    (hb : BoundaryRegisters b s.regs) (hidle : phaseBits s.regs ≠ Phase.ready.code)
    (hok : descriptorError (s.regs.ctrl.getLsbD 0) d = none) (e : Environment) :
    (OpenAnswers.source c nd d).final s e = respondOk [] (afterEvents s (readyRegs s.platform.bgr32Flip c nd d s.regs)
      (openCalls s.regs c nd d) e) := by
  rw [OpenAnswers.final_of_none (w := .source c nd d) hok, sessionRegs_acquired hb hidle]
  rfl

/-- Only a source can do without an error. -/
theorem OpenAnswers.exists_source_of_error_eq_none {w : OpenAnswers} {native : Bool} (h : w.error native = none) :
    ∃ c nd d, w = .source c nd d ∧ descriptorError native d = none := by
  cases w with
  | source c nd d => exact ⟨c, nd, d, rfl, h⟩
  | _ => cases h

theorem descriptorError_code_le {native : Bool} {d : Descriptor} {err : ErrCode} (h : descriptorError native d = some err) :
    err.code.toNat ≤ 8 := by
  unfold descriptorError at h
  split_ifs at h
  all_goals cases h
  all_goals decide

/-- The errors of a construction are 1 to 8 (60_exceptions.md R230). -/
theorem OpenAnswers.error_code_le {w : OpenAnswers} {native : Bool} {err : ErrCode} (h : w.error native = some err) :
    err.code.toNat ≤ 8 := by
  cases w with
  | source c nd d => exact descriptorError_code_le h
  | _ => cases h; decide

/-! ### Prepared answers decide the way -/

theorem OpenAnswers.eq_source_of_prepared {w : OpenAnswers} {s : State} {c nd : Word} {d : Descriptor}
    (hw : w.Prepared s.env) (h : AnswersOpen s c nd d) : w = .source c nd d := by
  obtain ⟨hengine, hctx, hnode, hdesc⟩ := h
  cases w with
  | noEngine => cases hw _ hengine
  | noScript diag => cases hw.2 _ hctx
  | noNode c' => cases hw.2.2 _ hnode
  | source c' nd' d' =>
    obtain ⟨-, hc, hn, hd⟩ := hw
    cases hc _ hctx
    cases hn _ hnode
    rw [hd d hdesc]

theorem OpenAnswers.eq_noEngine_of_prepared {w : OpenAnswers} {e : Environment} (hw : w.Prepared e)
    (h : e.initializeEngine.head? = some false) : w = .noEngine := by
  cases w with
  | noEngine => rfl
  | noScript | noNode | source => cases hw.1 _ h

theorem OpenAnswers.eq_noScript_of_prepared {w : OpenAnswers} {e : Environment} {diag : Word} (hw : w.Prepared e)
    (hengine : e.initializeEngine.head? = some true) (h : e.evaluate.head? = some (.err diag)) : w = .noScript diag := by
  cases w with
  | noEngine => cases hw _ hengine
  | noScript d => cases hw.2 _ h; rfl
  | noNode | source => cases hw.2.1 _ h

theorem OpenAnswers.eq_noNode_of_prepared {w : OpenAnswers} {e : Environment} {c : Word} (hw : w.Prepared e)
    (hengine : e.initializeEngine.head? = some true) (hctx : e.evaluate.head? = some (.ok c))
    (h : e.getOutputNode.head? = some none) : w = .noNode c := by
  cases w with
  | noEngine => cases hw _ hengine
  | noScript => cases hw.2 _ hctx
  | noNode c' => cases hw.2.1 _ hctx; rfl
  | source => cases hw.2.2.1 _ h

/-! ### The statements -/

/-- An OPEN from a boundary outside READY with every call answered ends as its answers say. -/
theorem exec_openSession_eq {s : State} (hans : EnvAnswers s) (hidle : phaseBits s.regs ≠ Phase.ready.code) :
    ∃ (w : OpenAnswers) (e : Environment), w.Prepared s.env ∧ exec .openSession s = .next (w.final s e) := by
  obtain ⟨w, e, hw, hbody⟩ := openBody_cases s
  refine ⟨w, e, hw, ?_⟩
  rw [exec_openSession_of_idle hidle, afterCalls_of_answers _ _ hans, hbody]

/-- Settles O46: the prepared answers are a source, and its descriptor passes. -/
theorem openConstructsTheSession : Obligations.OpenConstructsTheSession := by
  unfold Obligations.OpenConstructsTheSession
  intro s c nd d hb hans hidle hprep hok
  obtain ⟨w, e, hw, hexec⟩ := exec_openSession_eq hans hidle
  obtain rfl := OpenAnswers.eq_source_of_prepared hw hprep
  rw [OpenAnswers.final_ready hb hidle hok] at hexec
  exact ⟨_, hexec, rfl, rfl, rfl, rfl, rfl, rfl, rfl, rfl⟩

/-- Settles O47: the prepared answers are a source, and its descriptor is rejected with `e`. -/
theorem openRejectsTheFirstViolation : Obligations.OpenRejectsTheFirstViolation := by
  unfold Obligations.OpenRejectsTheFirstViolation
  intro s c nd d err hb hans hidle hprep herr
  obtain ⟨w, e, hw, hexec⟩ := exec_openSession_eq hans hidle
  obtain rfl := OpenAnswers.eq_source_of_prepared hw hprep
  obtain ⟨t, ht, hregs, hmem, htrace, hresp⟩ := OpenAnswers.failed_effect (w := .source c nd d) hb hidle herr hexec
  exact ⟨t, ht, hregs, htrace.trans (List.append_assoc _ _ _).symm, hresp, hmem⟩

/-- Settles O48: each prepared failure is one way a construction fails. -/
theorem openUnwindsAFailedAcquisition : Obligations.OpenUnwindsAFailedAcquisition := by
  unfold Obligations.OpenUnwindsAFailedAcquisition
  intro s hb hans hidle
  obtain ⟨w, e, hw, hexec⟩ := exec_openSession_eq hans hidle
  refine ⟨fun hengine => ?_, fun diag hengine hscript => ?_, fun c hengine hctx hnode => ?_⟩
  · obtain rfl := OpenAnswers.eq_noEngine_of_prepared hw hengine
    exact OpenAnswers.failed_effect (w := .noEngine) (err := .engineInit) hb hidle rfl hexec
  · obtain rfl := OpenAnswers.eq_noScript_of_prepared hw hengine hscript
    exact OpenAnswers.failed_effect (w := .noScript diag) (err := .scriptEval) hb hidle rfl hexec
  · obtain rfl := OpenAnswers.eq_noNode_of_prepared hw hengine hctx hnode
    exact OpenAnswers.failed_effect (w := .noNode c) (err := .noOutputNode) hb hidle rfl hexec

/-- The registers no OPEN writes: CTRL, SCRIPT_REF and the plane registers (10_state.md R22, R40). -/
def openKeeps : List Reg :=
  [.ctrl, .scriptRef, .srcBase0, .srcStride0, .srcBase1, .srcStride1, .srcBase2, .srcStride2,
    .dstBase0, .dstStride0, .dstBase1, .dstStride1, .dstBase2, .dstStride2]

theorem get_failedRegs_described (err : ErrCode) (w : OpenAnswers) (f : RegFile) :
    ∀ r ∈ openKeeps, (failedRegs err w.diag (w.described f)).get r = f.get r := by
  cases w <;> simp [openKeeps, failedRegs, OpenAnswers.described, storeDescriptor, RegFile.get]

theorem get_readyRegs (flip : Bool) (c nd : Word) (d : Descriptor) (f : RegFile) :
    ∀ r ∈ openKeeps, (readyRegs flip c nd d f).get r = f.get r := by
  simp [openKeeps, readyRegs, storeDescriptor, RegFile.get]

/-- Settles O49: an error releases what the answers handed over; without one the registers hold it. -/
theorem openEndsReadyOrFailedWithoutLeaks : Obligations.OpenEndsReadyOrFailedWithoutLeaks := by
  unfold Obligations.OpenEndsReadyOrFailedWithoutLeaks
  intro s hb hans hidle
  obtain ⟨w, e, -, hexec⟩ := exec_openSession_eq hans hidle
  cases herr : w.error (s.regs.ctrl.getLsbD 0) with
  | some err =>
    rw [OpenAnswers.final_failed hb hidle herr] at hexec
    refine ⟨_, _, hexec, rfl, ?_, rfl, get_failedRegs_described err w s.regs, .inr ⟨err, w.diag, err.code_toNat_pos,
      OpenAnswers.error_code_le herr, rfl, heldBy_failedRegs _ _ _, rfl⟩⟩
    rw [ledgerRun_append, ledgerRun_openCalls, Option.bind_some, ledgerRun_releases]
    exact congrArg some (heldBy_failedRegs err w.diag (w.described s.regs)).symm
  | none =>
    obtain ⟨c, nd, d, rfl, hok⟩ := OpenAnswers.exists_source_of_error_eq_none herr
    rw [OpenAnswers.final_ready hb hidle hok] at hexec
    refine ⟨_, _, hexec, rfl, ?_, rfl, get_readyRegs _ c nd d s.regs, .inl ⟨rfl, rfl⟩⟩
    exact (ledgerRun_openCalls (.source c nd d) s.regs).trans (congrArg some (heldBy_readyRegs _ c nd d s.regs).symm)

end Sys2Proof.Machine
end

section
/-! What a command can do, said once for all 14 (spec/30_encoding.md R93, R96): the effect of each, and that the number of the
call that is never answered decides only whether the command ends (70_reset_and_hazards.md R268). -/

namespace Sys2Proof.Machine

open Sys2Proof.Claims Sys2Proof.Safety

/-- The register file a command of the idle phases writes (R121, R134, R153, R159). -/
def RegistersWritten (bgr32Flip : Bool) (f : RegFile) : Instr → RegFile → Prop
  | .setr _ imm, g => ∃ r, hostWritable r = true ∧ g = f.set r (hostValue r imm)
  | .map, g => g = runMap f
  | .resolve, g => g = runResolve f
  | .select, g => g = runSelect bgr32Flip f
  | _, _ => False

/-- What a command does when its calls are answered: it only answers; when idle it writes registers or runs the moves of a
transcoder; or it is OPEN, GETFRAME or CLOSE with its checks passed. -/
inductive Effect (i : Instr) (s : State) : State → Prop where
  | answers (code : BitVec 8) (data : List Word) : Effect i s (answered code data s)
  | registers (f : RegFile) (hidle : inSession s.regs = false) (hf : RegistersWritten s.platform.bgr32Flip s.regs i f) :
      Effect i s (answered 0 [] { s with regs := f })
  | transfers (hi : i ∈ [Instr.blit, .stack, .bgrpack, .convert]) (hidle : inSession s.regs = false)
      (hok : parametersAccepted s.regs i) : Effect i s (endTransfer (transfer (movesRun s.regs i) s))
  | opens (hi : i = .openSession) (hidle : inSession s.regs = false) : Effect i s (openBody s)
  | fetches (n : Word) (hi : i = .getframe n) (hsession : inSession s.regs = true) (hok : convertParamsOk s.regs = true) :
      Effect i s (getframeBody n s)
  | closes (hi : i = .close) : Effect i s (closeBody s)

/-- The command ends in `t` unless one of the calls between is never answered, whichever call that is. -/
def EndsIn (i : Instr) (s t : State) : Prop := ∀ k, exec i (setStall k s) = afterCalls (setStall k s) (setStall k t)

theorem afterCalls_of_trace_eq {s t : State} (h : t.trace = s.trace) : afterCalls s t = .next t := by
  rw [afterCalls_eq_next, h]
  exact ⟨rfl, stallsBetween_self s.env s.trace.length⟩

/-- A command that makes no call ends whatever the environment does. -/
theorem endsIn_of_next {i : Instr} {s t : State} (htrace : t.trace = s.trace)
    (h : ∀ k, exec i (setStall k s) = .next (setStall k t)) : EndsIn i s t :=
  fun k => (h k).trans (afterCalls_of_trace_eq (s := setStall k s) (t := setStall k t) htrace).symm

/-- A command of the idle phases, by what its body does there. -/
theorem exists_effect_of_whenIdle {i : Instr} {s : State} (body : State → State) (hexec : ∀ u, exec i u = whenIdle u body)
    (htrace : (body s).trace = s.trace) (hstall : ∀ k, body (setStall k s) = setStall k (body s))
    (heffect : inSession s.regs = false → Effect i s (body s)) : ∃ t, Effect i s t ∧ EndsIn i s t := by
  cases h : inSession s.regs with
  | true =>
    exact ⟨_, .answers ErrCode.state.code [], endsIn_of_next (t := raise .state s) rfl fun k =>
      (hexec _).trans (whenIdle_of_inSession (s := setStall k s) h body)⟩
  | false =>
    exact ⟨_, heffect h, endsIn_of_next htrace fun k =>
      ((hexec _).trans (whenIdle_of_not_inSession (s := setStall k s) h body)).trans (congrArg _ (hstall k))⟩

/-! ### SETR and RDR -/

theorem exists_effect_setr (ra : BitVec 8) (imm : Word) (s : State) :
    ∃ t, Effect (.setr ra imm) s t ∧ EndsIn (.setr ra imm) s t := by
  have hbody : ∀ u : State, exec (.setr ra imm) u = whenIdle u fun v => if ∃ r ∈ regOfIndex ra, hostWritable r = true
      then respondOk [] { v with regs := v.regs.set ((regOfIndex ra).getD .ctrl) (hostValue ((regOfIndex ra).getD .ctrl) imm) }
      else raise .reg v := by
    intro u
    rw [exec, execSetr]
    cases regOfIndex ra with
    | none => simp
    | some r => simp
  refine exists_effect_of_whenIdle _ hbody ?_ (fun k => ?_) fun hidle => ?_
  · split <;> rfl
  · split <;> rfl
  · split
    next h =>
      obtain ⟨r, hr, hwr⟩ := h
      rw [hr]
      exact .registers _ hidle ⟨r, hwr, rfl⟩
    next => exact .answers ErrCode.reg.code []

theorem exists_effect_rdr (ra : BitVec 8) (s : State) : ∃ t, Effect (.rdr ra) s t ∧ EndsIn (.rdr ra) s t := by
  cases h : regOfIndex ra with
  | none =>
    exact ⟨raise .reg s, .answers ErrCode.reg.code [], endsIn_of_next rfl fun k => by simp only [exec, execRdr, h]; rfl⟩
  | some r =>
    exact ⟨respondOk [s.regs.get r] s, .answers 0 [s.regs.get r], endsIn_of_next rfl fun k => by
      simp only [exec, execRdr, h]; rfl⟩

/-! ### The transcoder commands -/

theorem endTransfer_trace (ms : List Move) (s : State) : (endTransfer (transfer ms s)).trace = s.trace := by
  have h := transfer_trace ms s
  generalize transfer ms s = r at h ⊢
  obtain ⟨_ | e, t⟩ := r <;> exact h

theorem endTransfer_transfer_setStall (ms : List Move) (k : Option Nat) (s : State) :
    endTransfer (transfer ms (setStall k s)) = setStall k (endTransfer (transfer ms s)) := by
  rw [transfer_setStall, endTransfer_setStall]

/-- `ConvertBody` with its parameters accepted runs the moves of the transcoder that `XSEL.SEL` names (43_transcoders.md
R185). -/
theorem convertBody_eq_transfer {s : State} (h : convertParamsOk s.regs = true) :
    convertBody s = transfer (movesRun s.regs .convert) s := by
  rcases (convertParamsOk_iff s.regs).mp h with ⟨hsel, hok⟩ | ⟨hsel, hok⟩ | ⟨hsel, hok⟩
  all_goals
    have hsel' := hsel
    rw [xselSel, bits] at hsel'
    simp [convertBody, movesRun, transcoderRun, transcoderOf, hsel, hsel', hok, transcoderMoves]

/-- A transcoder command refuses its parameters or runs its moves. -/
theorem exists_effect_transcoder {i : Instr} (hi : i ∈ [Instr.blit, .stack, .bgrpack, .convert]) (ok : RegFile → Bool)
    (hok : ∀ f, ok f = true ↔ parametersAccepted f i)
    (hexec : ∀ u, exec i u = whenIdle u fun v =>
      if ok v.regs then endTransfer (transfer (movesRun v.regs i) v) else raise .param v) (s : State) :
    ∃ t, Effect i s t ∧ EndsIn i s t := by
  refine exists_effect_of_whenIdle _ hexec ?_ (fun k => ?_) fun hidle => ?_
  all_goals cases h : ok s.regs
  · rfl
  · exact endTransfer_trace _ s
  · simp [h, raise_setStall]
  · simp [h, endTransfer_transfer_setStall]
  · exact .answers ErrCode.param.code []
  · exact .transfers hi hidle ((hok _).mp h)

theorem exec_convert_eq (u : State) : exec .convert u = whenIdle u fun v =>
    if convertParamsOk v.regs then endTransfer (transfer (movesRun v.regs .convert) v) else raise .param v := by
  rw [exec, execConvert]
  congr 1
  funext v
  split
  next h => rw [convertBody_eq_transfer h]
  next h =>
    rw [convertBody_of_refused (Bool.eq_false_iff.mpr h)]
    rfl

/-! ### The commands with calls -/

theorem exists_effect_openSession (s : State) : ∃ t, Effect .openSession s t ∧ EndsIn .openSession s t := by
  cases h : inSession s.regs with
  | true => exact ⟨raise .state s, .answers ErrCode.state.code [], endsIn_of_next rfl fun k => if_pos h⟩
  | false =>
    refine ⟨_, .opens rfl h, fun k => ?_⟩
    rw [exec, execOpenSession, setStall_regs, h, if_neg Bool.false_ne_true, openBody_setStall]

theorem exists_effect_getframe (n : Word) (s : State) : ∃ t, Effect (.getframe n) s t ∧ EndsIn (.getframe n) s t := by
  cases h : inSession s.regs with
  | false =>
    exact ⟨raise .state s, .answers ErrCode.state.code [], endsIn_of_next rfl fun k => if_neg (by simp [h])⟩
  | true =>
    cases hok : convertParamsOk s.regs with
    | false =>
      exact ⟨raise .param s, .answers ErrCode.param.code [], endsIn_of_next rfl fun k =>
        (if_pos h).trans (if_neg (by simp [hok]))⟩
    | true =>
      refine ⟨_, .fetches n rfl h hok, fun k => ?_⟩
      rw [exec, execGetframe, setStall_regs, h, if_pos rfl, hok, if_pos rfl, getframeBody_setStall]

theorem exists_effect_close (s : State) : ∃ t, Effect .close s t ∧ EndsIn .close s t := by
  refine ⟨_, .closes rfl, fun k => ?_⟩
  rw [exec, execClose, closeBody_setStall]

theorem exists_effect_getgeom (s : State) : ∃ t, Effect .getgeom s t ∧ EndsIn .getgeom s t := by
  cases h : inSession s.regs with
  | true => exact ⟨_, .answers 0 [s.regs.cWidth, s.regs.cHeight, s.regs.cFrames, s.regs.cFpsnum, s.regs.cFpsden, s.regs.cFmt],
      endsIn_of_next rfl fun k => if_pos h⟩
  | false => exact ⟨raise .state s, .answers ErrCode.state.code [], endsIn_of_next rfl fun k => if_neg (by simp [h])⟩

/-! ### Every command -/

/-- Every command has one effect, and ends in it unless one of its calls is never answered. -/
theorem exists_effect (i : Instr) (s : State) : ∃ t, Effect i s t ∧ EndsIn i s t := by
  cases i with
  | nop => exact ⟨respondOk [] s, .answers 0 [], endsIn_of_next rfl fun _ => rfl⟩
  | setr ra imm => exact exists_effect_setr ra imm s
  | rdr ra => exact exists_effect_rdr ra s
  | openSession => exact exists_effect_openSession s
  | getgeom => exact exists_effect_getgeom s
  | getframe n => exact exists_effect_getframe n s
  | close => exact exists_effect_close s
  | map => exact exists_effect_of_whenIdle _ (fun _ => rfl) rfl (fun _ => rfl) fun h => .registers _ h rfl
  | resolve => exact exists_effect_of_whenIdle _ (fun _ => rfl) rfl (fun _ => rfl) fun h => .registers _ h rfl
  | select => exact exists_effect_of_whenIdle _ (fun _ => rfl) rfl (fun _ => rfl) fun h => .registers _ h rfl
  | blit =>
    exact exists_effect_transcoder (i := .blit) (by simp) blitParamsOk (fun f => (blitAccepted_iff f).symm) (fun _ => rfl) s
  | stack =>
    exact exists_effect_transcoder (i := .stack) (by simp) stackParamsOk (fun f => (stackAccepted_iff f).symm)
      (fun _ => rfl) s
  | bgrpack =>
    exact exists_effect_transcoder (i := .bgrpack) (by simp) bgrParamsOk (fun f => (bgrAccepted_iff f).symm)
      (fun _ => rfl) s
  | convert =>
    exact exists_effect_transcoder (i := .convert) (by simp) convertParamsOk (fun f => (convertAccepted_iff f).symm)
      exec_convert_eq s

/-- What does not depend on the number of the unanswered call does not change it. -/
theorem stallAt_of_setStall_comm {g : State → State} {s : State} (h : ∀ k, g (setStall k s) = setStall k (g s)) :
    (g s).env.stallAt = s.env.stallAt :=
  congrArg (fun t => t.env.stallAt) (h s.env.stallAt)

theorem Effect.stallAt {i : Instr} {s t : State} (h : Effect i s t) : t.env.stallAt = s.env.stallAt := by
  cases h with
  | answers | registers => rfl
  | transfers =>
    exact stallAt_of_setStall_comm (g := fun u => endTransfer (transfer (movesRun s.regs i) u))
      fun k => endTransfer_transfer_setStall _ k s
  | opens => exact stallAt_of_setStall_comm fun k => openBody_setStall k s
  | fetches n => exact stallAt_of_setStall_comm fun k => getframeBody_setStall n k s
  | closes => exact stallAt_of_setStall_comm fun k => closeBody_setStall k s

/-- A command ends in its effect, unless one of its calls is never answered. -/
theorem exec_eq_afterCalls (i : Instr) (s : State) : ∃ t, Effect i s t ∧ EndsIn i s t ∧ exec i s = afterCalls s t := by
  obtain ⟨t, heffect, hends⟩ := exists_effect i s
  have hself : setStall s.env.stallAt t = t := by rw [← heffect.stallAt]; rfl
  have hexec : exec i s = afterCalls s (setStall s.env.stallAt t) := hends s.env.stallAt
  exact ⟨t, heffect, hends, hself ▸ hexec⟩

/-- What a command that ends has done. -/
theorem effect_of_exec {i : Instr} {s t : State} (h : exec i s = .next t) : Effect i s t := by
  obtain ⟨u, heffect, -, hexec⟩ := exec_eq_afterCalls i s
  rw [hexec, afterCalls_eq_next] at h
  obtain ⟨rfl, -⟩ := h
  exact heffect

end Sys2Proof.Machine
end

section
/-! What every command keeps (spec/10_state.md R21, R47): the trace only grows, the word list and the platform stay, and the
memory keeps its canonical form. With the effects of the commands this gives when a command ends and what a step keeps. -/

namespace Sys2Proof.Machine

open Sys2Proof.Claims Sys2Proof.Safety

/-- What work on the state may do besides writing registers and answering: append to the trace and write memory. -/
structure Continues (s t : State) : Prop where
  trace : s.trace <+: t.trace
  commands : t.commands = s.commands
  index : t.index = s.index
  platform : t.platform = s.platform
  wf : s.mem.wf → t.mem.wf

namespace Continues

variable {s t u : State}

theorem trans (h : Continues s t) (h' : Continues t u) : Continues s u :=
  ⟨h.trace.trans h'.trace, h'.commands.trans h.commands, h'.index.trans h.index, h'.platform.trans h.platform,
    fun hm => h'.wf (h.wf hm)⟩

/-- Registers, responses and answers consumed are not spoken of. -/
theorem of_afterEvents (s : State) (r : RegFile) (calls : List EnvEvent) (e : Environment) :
    Continues s (afterEvents s r calls e) :=
  ⟨List.prefix_append _ _, rfl, rfl, rfl, id⟩

theorem onRegs (h : Continues s t) (g : RegFile → RegFile) : Continues s (Machine.onRegs g t) :=
  ⟨h.trace, h.commands, h.index, h.platform, h.wf⟩

theorem raise (h : Continues s t) (e : ErrCode) : Continues s (Machine.raise e t) :=
  ⟨h.trace, h.commands, h.index, h.platform, h.wf⟩

theorem respondOk (h : Continues s t) (data : List Word) : Continues s (Machine.respondOk data t) :=
  ⟨h.trace, h.commands, h.index, h.platform, h.wf⟩

theorem record (h : Continues s t) (e : EnvEvent) : Continues s (Machine.record e t) :=
  h.trans (of_afterEvents t t.regs [e] t.env)

theorem releaseFrame (h : Continues s t) : Continues s (Machine.releaseFrame t) :=
  (h.record (.releaseFrame t.regs.frameH)).onRegs _

theorem fetchPlanes (h : Continues s t) : Continues s (Machine.fetchPlanes t) := by
  have hnodup : (planesOf t.regs).Nodup := List.Nodup.filter _ (by decide : allPlanes.Nodup)
  obtain ⟨a, e, heq, -⟩ := fetchPlanes_cases (planesOf t.regs) hnodup t
  rw [Machine.fetchPlanes, heq]
  exact h.trans (of_afterEvents t _ _ e)

theorem callAllocFrame {c x y : Word} {r : Option Allocation} (h : Continues s t)
    (hcall : Machine.callAllocFrame c x y t = (r, u)) : Continues s u := by
  rw [show u = (Machine.callAllocFrame c x y t).2 from congrArg Prod.snd hcall.symm]
  exact h.trans (of_afterEvents t t.regs [.allocFrame c x y (answerAllocFrame c x y t)] _)

theorem transfer (h : Continues s t) (ms : List Move) : Continues s (Machine.transfer ms t).2 :=
  h.trans ⟨(transfer_trace ms t).symm ▸ List.prefix_rfl, transfer_commands ms t, transfer_index ms t,
    transfer_platform ms t, fun hm => (transfer_spec ms t hm).1⟩

theorem convertBody (h : Continues s t) : Continues s (Machine.convertBody t).2 := by
  cases hok : convertParamsOk t.regs with
  | true => rw [convertBody_eq_transfer hok]; exact h.transfer _
  | false => rw [convertBody_of_refused hok]; exact h

theorem endTransfer (h : Continues s t) (ms : List Move) : Continues s (Machine.endTransfer (Machine.transfer ms t)) := by
  have hmoved := h.transfer ms
  generalize Machine.transfer ms t = r at hmoved ⊢
  obtain ⟨_ | e, v⟩ := r
  · exact hmoved.respondOk []
  · exact hmoved.raise e

end Continues

/-! ### The commands with calls, from their first call on -/

theorem OpenAnswers.exists_calls_eq_cons (w : OpenAnswers) (f : RegFile) :
    ∃ ok rest, w.calls f = .initializeEngine ok :: rest := by
  cases w <;> exact ⟨_, _, rfl⟩

/-- OPEN starts with `initializeEngine` and accesses no memory. -/
theorem openBody_effect (s : State) : ∃ ok, Continues (record (.initializeEngine ok) s) (openBody s) ∧
    (openBody s).mem = s.mem ∧
    (phaseBits (openBody s).regs = Phase.ready.code ∨ phaseBits (openBody s).regs = Phase.failed.code) := by
  obtain ⟨w, e, -, hbody⟩ := openBody_cases s
  obtain ⟨ok, rest, hcalls⟩ := w.exists_calls_eq_cons s.regs
  have hfrom (r : RegFile) (calls : List EnvEvent) :
      Continues (record (.initializeEngine ok) s) (afterEvents s r (.initializeEngine ok :: calls) e) := by
    have hsplit : afterEvents s r (.initializeEngine ok :: calls) e =
        afterEvents (record (.initializeEngine ok) s) r calls e := by
      rw [record_eq, afterEvents_afterEvents]
      rfl
    rw [hsplit]
    exact Continues.of_afterEvents _ r calls e
  rw [hbody]
  cases herr : w.error (s.regs.ctrl.getLsbD 0) with
  | some err =>
    rw [OpenAnswers.final_of_error herr, hcalls]
    exact ⟨ok, (hfrom _ _).raise err, rfl, .inr (phaseBits_setPhase _ _)⟩
  | none =>
    rw [OpenAnswers.final_of_none herr, hcalls]
    exact ⟨ok, (hfrom _ _).respondOk [], rfl, .inl (phaseBits_setPhase _ _)⟩

/-- GETFRAME with its checks passed starts with `getFrame` and ends in READY (44_session.md R210). -/
theorem getframeBody_effect (n : Word) (s : State) :
    ∃ r, Continues (record (.getFrame s.regs.nodeH n r) s) (getframeBody n s) ∧
      phaseBits (getframeBody n s).regs = Phase.ready.code := by
  refine ⟨answerGetFrame s.regs.nodeH n (onRegs (setPhase .fetching) s), ?_⟩
  have hfetch : Continues (record (.getFrame s.regs.nodeH n (answerGetFrame s.regs.nodeH n (onRegs (setPhase .fetching) s))) s)
      (callGetFrame s.regs.nodeH n (onRegs (setPhase .fetching) s)).2 := ⟨List.prefix_rfl, rfl, rfl, rfl, id⟩
  have hready : ∀ f, phaseBits (setPhase .ready f) = Phase.ready.code := fun f => phaseBits_setPhase f .ready
  unfold getframeBody
  simp only
  split
  next u hcall =>
    rw [show u = (callGetFrame _ n _).2 from congrArg Prod.snd hcall.symm]
    exact ⟨(hfetch.onRegs _).raise _, hready _⟩
  next fr u hcall =>
    have hu : Continues (record (.getFrame _ n _) s) u :=
      (show u = (callGetFrame _ n _).2 from congrArg Prod.snd hcall.symm) ▸ hfetch
    have hheld := hu.onRegs fun f => setHaveFrame true { f with frameH := fr }
    split
    next v hcall' =>
      have hv := hheld.callAllocFrame hcall'
      exact ⟨(hv.releaseFrame.onRegs _).raise _, hready _⟩
    next al v hcall' =>
      have hv := hheld.callAllocFrame hcall'
      have hconv := ((hv.onRegs (storeAllocation al)).fetchPlanes.onRegs (setPhase .converting)).convertBody
      split
      next e x hbody =>
        rw [hbody] at hconv
        exact ⟨(hconv.releaseFrame.onRegs _).raise _, hready _⟩
      next x hbody =>
        rw [hbody] at hconv
        exact ⟨((hconv.releaseFrame.onRegs _).onRegs _).respondOk _, hready _⟩

/-! ### Every command -/

theorem Effect.continues {i : Instr} {s t : State} (h : Effect i s t) : Continues s t := by
  have hself : Continues s s := ⟨List.prefix_rfl, rfl, rfl, rfl, id⟩
  cases h with
  | answers code data => exact ⟨List.prefix_rfl, rfl, rfl, rfl, id⟩
  | registers f => exact ⟨List.prefix_rfl, rfl, rfl, rfl, id⟩
  | transfers => exact hself.endTransfer _
  | opens =>
    obtain ⟨ok, hcont, -⟩ := openBody_effect s
    exact (hself.record _).trans hcont
  | fetches n =>
    obtain ⟨r, hcont, -⟩ := getframeBody_effect n s
    exact (hself.record _).trans hcont
  | closes =>
    rw [closeBody_eq, ← respondOk_eq_answered]
    exact (Continues.of_afterEvents s _ _ _).respondOk []

/-- What a step does with the word it reads: an illegal one is answered, a legal one has its effect; then the index
advances. -/
theorem step_cases {s t : State} {w : CommandWord} (hw : fetchWord s = some w) (h : step s = .next t) :
    ∃ u, t = advance u ∧ ((∃ code, u = answered code [] s) ∨ ∃ i, exec i s = .next u) := by
  cases hd : decode w with
  | error e =>
    rw [step_of_illegal hw hd] at h
    exact ⟨raise .illegalCmd s, (Host.Outcome.next.inj h).symm, .inl ⟨_, raise_eq_answered .illegalCmd s⟩⟩
  | ok i =>
    rw [step_of_legal hw hd, stepEnd_eq_next] at h
    obtain ⟨u, hu, rfl⟩ := h
    exact ⟨u, rfl, .inr ⟨i, hu⟩⟩

/-- A property of states that no answer and no advance of the index touches, and that every command keeps, is kept by every
step. -/
theorem step_keeps {P : State → Prop} (hanswer : ∀ s code, P s → P (answered code [] s)) (hadvance : ∀ s, P s → P (advance s))
    (hexec : ∀ i s t, P s → exec i s = .next t → P t) {s t : State} (hs : P s) (h : step s = .next t) : P t := by
  cases hw : fetchWord s with
  | none =>
    simp only [step, hw] at h
    cases h
    exact hs
  | some w =>
    obtain ⟨u, rfl, ⟨code, rfl⟩ | ⟨i, hu⟩⟩ := step_cases hw h
    · exact hadvance _ (hanswer s code hs)
    · exact hadvance _ (hexec i s u hs hu)

/-- Settles O8: the response is the one of R98, the rest is what every command keeps. -/
theorem everyStepGrowsTheListsByOneCommand : Obligations.EveryStepGrowsTheListsByOneCommand := by
  unfold Obligations.EveryStepGrowsTheListsByOneCommand
  refine ⟨rfl, rfl, rfl, fun s t w hw h => ?_⟩
  obtain ⟨u, rfl, ⟨code, rfl⟩ | ⟨i, hu⟩⟩ := step_cases hw h
  · exact ⟨rfl, ⟨_, rfl⟩, ⟨[], (List.append_nil _).symm⟩, rfl, rfl⟩
  · obtain ⟨⟨calls, htrace⟩, hcommands, hindex, hplatform, -⟩ := (effect_of_exec hu).continues
    obtain ⟨r, hresp, -⟩ := exec_responseForm hu
    exact ⟨congrArg (· + 1) hindex, ⟨r, hresp⟩, ⟨calls, htrace.symm⟩, hcommands, hplatform⟩

/-- Settles O16: every effect keeps the canonical form. -/
theorem stepKeepsMemoryCanonical : Obligations.StepKeepsMemoryCanonical := by
  unfold Obligations.StepKeepsMemoryCanonical
  intro s t hmem h
  exact step_keeps (P := fun u => u.mem.wf) (fun _ _ => id) (fun _ => id)
    (fun i u v hu hv => (effect_of_exec hv).continues.wf hu) hmem h

end Sys2Proof.Machine
end

section
/-! When a command ends, which phase it leaves, and what the commands without memory accesses leave of the memory
(spec/70_reset_and_hazards.md section 4, 10_state.md section 4, 20_memory.md section 4). -/

namespace Sys2Proof.Machine

open Sys2Proof.Claims Sys2Proof.Safety

/-! ### When a command ends -/

/-- The commands without environment calls leave the trace. -/
theorem Effect.trace_eq {i : Instr} {s t : State} (h : Effect i s t) (hopen : i ≠ .openSession) (hclose : i ≠ .close)
    (hframe : ∀ n, i ≠ .getframe n) : t.trace = s.trace := by
  cases h with
  | answers | registers => rfl
  | transfers => exact endTransfer_trace _ s
  | opens hi => exact absurd hi hopen
  | fetches n hi => exact absurd hi (hframe n)
  | closes hi => exact absurd hi hclose

/-- Settles O12: a command ends in its effect when all calls are answered, and always when it makes none. -/
theorem everyCommandEndsWhenAnswered : Obligations.EveryCommandEndsWhenAnswered := by
  unfold Obligations.EveryCommandEndsWhenAnswered
  refine ⟨fun i s hans => ?_, fun i s hopen hclose hframe => ?_⟩
  · obtain ⟨t, -, -, hexec⟩ := exec_eq_afterCalls i s
    exact ⟨t, hexec.trans (afterCalls_of_answers s t hans)⟩
  · obtain ⟨t, heffect, -, hexec⟩ := exec_eq_afterCalls i s
    exact ⟨t, hexec.trans (afterCalls_of_trace_eq (heffect.trace_eq hopen hclose hframe))⟩

/-- The call with number `k` is one of those numbered from `start` up to `upto`. -/
theorem stallsBetween_eq_true_iff (e : Environment) (start upto : Nat) :
    stallsBetween e start upto = true ↔ ∃ k, e.stallAt = some k ∧ start ≤ k ∧ k < upto := by
  unfold stallsBetween
  cases e.stallAt <;> simp

theorem afterCalls_eq_fault_iff (s t : State) (r : Fault) :
    afterCalls s t = .fault r ↔ ∃ k, s.env.stallAt = some k ∧ s.trace.length ≤ k ∧ k < t.trace.length := by
  rw [← stallsBetween_eq_true_iff, afterCalls]
  cases stallsBetween s.env s.trace.length t.trace.length <;> simp

/-- The command does not end when its first call is the one that is never answered. -/
theorem afterCalls_of_first_stall {s t : State} {e : EnvEvent} (h : Continues (record e s) t)
    (hstall : s.env.stallAt = some s.trace.length) : afterCalls s t = .fault .envNeverAnswers := by
  rw [afterCalls_eq_fault_iff]
  have hlen := h.trace.length_le
  rw [record_trace, List.length_append, List.length_singleton] at hlen
  exact ⟨_, hstall, le_refl _, hlen⟩

/-- A CLOSE with something to release makes a first call. -/
theorem closeBody_effect {s : State} (h : haveNode s.regs = true ∨ haveCtx s.regs = true ∨ haveEngine s.regs = true) :
    ∃ e, Continues (record e s) (closeBody s) := by
  have hcalls : ∃ e rest, closeCalls s.regs = e :: rest := by
    unfold closeCalls
    cases hnode : haveNode s.regs <;> cases hctx : haveCtx s.regs <;> cases hengine : haveEngine s.regs <;> simp_all
  obtain ⟨e, rest, hcalls⟩ := hcalls
  have hsplit : afterEvents s (clearForClose s.regs) (e :: rest) s.env =
      afterEvents (record e s) (clearForClose s.regs) rest s.env := by
    rw [record_eq, afterEvents_afterEvents]
    rfl
  refine ⟨e, ?_⟩
  rw [closeBody_eq, hcalls, hsplit, ← respondOk_eq_answered]
  exact (Continues.of_afterEvents _ _ rest s.env).respondOk []

/-- Settles O13: the calls of a command are those between the trace lengths before and after, and the number of the unanswered
call decides nothing but whether it is one of them. -/
theorem unansweredCallNeverEnds : Obligations.UnansweredCallNeverEnds := by
  unfold Obligations.UnansweredCallNeverEnds
  refine ⟨fun i s t k h => ?_, fun s hidle hstall => ?_, fun s n hsession hok hstall => ?_, fun s hheld hstall => ?_,
    fun i s r h => ?_⟩
  · obtain ⟨u, -, hends, -⟩ := exec_eq_afterCalls i s
    have ht : t = setStall none u := by
      rw [show exec i (withStall none s) = _ from hends none, afterCalls_eq_next] at h
      exact h.1
    subst ht
    have hexec : exec i (withStall (some k) s) = afterCalls (setStall (some k) s) (setStall (some k) u) := hends (some k)
    rw [hexec]
    refine ⟨fun hbetween => ?_, fun houtside => ?_⟩
    · rw [afterCalls_eq_fault_iff]
      exact ⟨k, rfl, hbetween⟩
    · rw [afterCalls_eq_next, Bool.eq_false_iff, Ne, stallsBetween_eq_true_iff]
      refine ⟨rfl, ?_⟩
      rintro ⟨j, hj, hge, hlt⟩
      cases hj
      simp only [setStall_trace] at hge hlt houtside
      omega
  · obtain ⟨ok, hcont, -⟩ := openBody_effect s
    rw [exec, execOpenSession, hidle, if_neg Bool.false_ne_true]
    exact afterCalls_of_first_stall hcont hstall
  · obtain ⟨x, hcont, -⟩ := getframeBody_effect n s
    rw [exec, execGetframe, if_pos hsession, if_pos hok]
    exact afterCalls_of_first_stall hcont hstall
  · obtain ⟨e, hcont⟩ := closeBody_effect hheld
    exact afterCalls_of_first_stall hcont hstall
  · obtain ⟨u, -, -, hexec⟩ := exec_eq_afterCalls i s
    rw [hexec, afterCalls_eq_fault_iff] at h
    obtain ⟨k, hk, hle, -⟩ := h
    exact ⟨k, hk, hle⟩

/-! ### The phase after a command (10_state.md R43) -/

theorem endTransfer_transfer_regs (ms : List Move) (s : State) : (endTransfer (transfer ms s)).regs = s.regs := by
  have h := transfer_regs ms s
  generalize transfer ms s = r at h ⊢
  obtain ⟨_ | e, t⟩ := r <;> exact h

/-- No command of the idle phases writes STATUS. -/
theorem RegistersWritten.status {b : Bool} {f g : RegFile} {i : Instr} (h : RegistersWritten b f i g) :
    g.status = f.status := by
  cases i with
  | setr ra imm =>
    obtain ⟨r, hwr, rfl⟩ := h
    refine status_set (fun hro => ?_) f _
    rw [(mem_readOnlyRegs_iff r).mp hro] at hwr
    cases hwr
  | map | resolve | select => cases h; rfl
  | _ => cases h

/-- A command keeps the phase, unless it is an OPEN that constructs or fails, or a CLOSE. -/
theorem Effect.phase {i : Instr} {s t : State} (h : Effect i s t) :
    phaseBits t.regs = phaseBits s.regs ∨
      (i = .openSession ∧ inSession s.regs = false ∧
        (phaseBits t.regs = Phase.ready.code ∨ phaseBits t.regs = Phase.failed.code)) ∨
      (i = .close ∧ phaseBits t.regs = Phase.uninit.code) := by
  cases h with
  | answers => exact .inl rfl
  | registers f _ hf => exact .inl (congrArg (bits · 0 3) hf.status)
  | transfers => exact .inl (congrArg phaseBits (endTransfer_transfer_regs _ s))
  | opens hi hidle =>
    obtain ⟨_, -, -, hphase⟩ := openBody_effect s
    exact .inr (.inl ⟨hi, hidle, hphase⟩)
  | fetches n hi hsession =>
    obtain ⟨_, -, hphase⟩ := getframeBody_effect n s
    exact .inl (hphase.trans (beq_iff_eq.mp hsession).symm)
  | closes hi =>
    rw [closeBody_eq]
    exact .inr (.inr ⟨hi, phaseBits_clearForClose s.regs⟩)

/-- Settles O20: by the phase each effect leaves. -/
theorem phaseTransitionsAtBoundaries : Obligations.PhaseTransitionsAtBoundaries := by
  unfold Obligations.PhaseTransitionsAtBoundaries
  intro i s t _ h
  have hphase := (effect_of_exec h).phase
  cases i with
  | openSession =>
    simp only
    split
    next hready =>
      rw [exec_of_phase_refused (inSession_of_phaseBits hready) rfl] at h
      cases h
      exact hready
    next hidle =>
      rw [exec_openSession_of_idle hidle, afterCalls_eq_next] at h
      obtain ⟨rfl, -⟩ := h
      obtain ⟨_, -, -, hend⟩ := openBody_effect s
      exact hend
  | close =>
    rw [regs_of_exec_close h]
    exact phaseBits_clearForClose s.regs
  | _ => simpa using hphase

/-! ### Commands without memory accesses (20_memory.md R61) -/

/-- The same state with another memory. -/
def setMem (m : Memory) (s : State) : State := { s with mem := m }

/-- Another memory in what a command answers. -/
def mapNext (g : State → State) : Host.Outcome State Fault Refusal → Host.Outcome State Fault Refusal
  | .next t => .next (g t)
  | .fault r => .fault r
  | .refused r => .refused r

theorem whenIdle_setMem (m : Memory) (s : State) (body : State → State) (h : body (setMem m s) = setMem m (body s)) :
    whenIdle (setMem m s) body = mapNext (setMem m) (whenIdle s body) := by
  cases hs : inSession s.regs with
  | true => rw [whenIdle_of_inSession hs, whenIdle_of_inSession (s := setMem m s) hs]; rfl
  | false => rw [whenIdle_of_not_inSession hs, whenIdle_of_not_inSession (s := setMem m s) hs, h]; rfl

theorem afterCalls_setMem (m : Memory) (s t : State) :
    afterCalls (setMem m s) (setMem m t) = mapNext (setMem m) (afterCalls s t) := by
  have hcalls : afterCalls (setMem m s) (setMem m t) =
    if stallsBetween s.env s.trace.length t.trace.length then .fault .envNeverAnswers else .next (setMem m t) := rfl
  rw [hcalls, afterCalls]
  split <;> rfl

/-- `Acquire` on another memory: the same answer, the states differing in the memory alone. -/
theorem acquire_setMem (m : Memory) (s : State) :
    acquire (setMem m s) = (acquire s).mapError (fun x => (x.1, setMem m x.2)) >>= fun t => .ok (setMem m t) := by
  have hengine : callInitializeEngine (setMem m s) = ((callInitializeEngine s).1, setMem m (callInitializeEngine s).2) := rfl
  have hctx (u : State) (r : Word) (b : Bool) :
      callEvaluate r b (setMem m u) = ((callEvaluate r b u).1, setMem m (callEvaluate r b u).2) := rfl
  have hnode (u : State) (c : Word) (i : BitVec 8) :
      callGetOutputNode c i (setMem m u) = ((callGetOutputNode c i u).1, setMem m (callGetOutputNode c i u).2) := rfl
  have hregs (u : State) (g : RegFile → RegFile) : onRegs g (setMem m u) = setMem m (onRegs g u) := rfl
  have hsame (u : State) : (setMem m u).regs = u.regs := rfl
  unfold acquire
  rw [hengine]
  rcases callInitializeEngine s with ⟨_ | _, s1⟩
  · rfl
  · simp only [hregs, hsame, hctx]
    rcases callEvaluate _ _ _ with ⟨c | d, s2⟩
    · simp only [hregs, hsame, hnode]
      rcases callGetOutputNode _ _ _ with ⟨_ | nd, s3⟩ <;> rfl
    · rfl

theorem failOpen_setMem (e : ErrCode) (m : Memory) (s : State) : failOpen e (setMem m s) = setMem m (failOpen e s) := by
  rw [failOpen_eq, failOpen_eq]
  rfl

theorem openBody_setMem (m : Memory) (s : State) : openBody (setMem m s) = setMem m (openBody s) := by
  have hclear : onRegs clearForOpen (setMem m s) = setMem m (onRegs clearForOpen s) := rfl
  unfold openBody
  rw [hclear, acquire_setMem]
  rcases acquire (onRegs clearForOpen s) with ⟨e, t⟩ | t
  · exact failOpen_setMem e m t
  · have hload : loadDescriptor (setMem m t) = setMem m (loadDescriptor t) := rfl
    have hregs : (setMem m (loadDescriptor t)).regs = (loadDescriptor t).regs := rfl
    simp only [Except.mapError, bind, Except.bind, hload, hregs]
    rcases validate (loadDescriptor t).regs with ⟨_ | e, f⟩
    · rfl
    · exact failOpen_setMem e m { loadDescriptor t with regs := f }

theorem closeBody_setMem (m : Memory) (s : State) : closeBody (setMem m s) = setMem m (closeBody s) := by
  rw [closeBody_eq, closeBody_eq]
  rfl

/-- The commands other than the transcoders' and GETFRAME do the same with any memory. -/
theorem exec_setMem {i : Instr} (hi : i ∉ [Instr.blit, .stack, .bgrpack, .convert]) (hframe : ∀ n, i ≠ .getframe n)
    (m : Memory) (s : State) : exec i (setMem m s) = mapNext (setMem m) (exec i s) := by
  cases i with
  | nop => rfl
  | setr ra imm =>
    rw [exec, exec, execSetr, execSetr]
    refine whenIdle_setMem m s _ ?_
    split
    · rfl
    · split <;> rfl
  | rdr ra =>
    simp only [exec, execRdr]
    split <;> rfl
  | openSession =>
    have hregs : (setMem m s).regs = s.regs := rfl
    rw [exec, exec, execOpenSession, execOpenSession, openBody_setMem, afterCalls_setMem, hregs]
    split <;> rfl
  | getgeom =>
    have hregs : (setMem m s).regs = s.regs := rfl
    rw [exec, exec, execGetgeom, execGetgeom, hregs]
    split <;> rfl
  | getframe n => exact absurd rfl (hframe n)
  | close =>
    rw [exec, exec, execClose, execClose, closeBody_setMem, afterCalls_setMem]
  | map => rw [exec, exec, execMap, execMap]; exact whenIdle_setMem m s _ rfl
  | resolve => rw [exec, exec, execResolve, execResolve]; exact whenIdle_setMem m s _ rfl
  | select => rw [exec, exec, execSelect, execSelect]; exact whenIdle_setMem m s _ rfl
  | blit | stack | bgrpack | convert => exact absurd (by simp) hi

/-- Those commands leave memory as it was. -/
theorem Effect.mem_eq {i : Instr} {s t : State} (h : Effect i s t) (hi : i ∉ [Instr.blit, .stack, .bgrpack, .convert])
    (hframe : ∀ n, i ≠ .getframe n) : t.mem = s.mem := by
  cases h with
  | answers | registers => rfl
  | transfers hi' => exact absurd hi' hi
  | opens =>
    obtain ⟨_, -, hmem, -⟩ := openBody_effect s
    exact hmem
  | fetches n hi' => exact absurd hi' (hframe n)
  | closes => rw [closeBody_eq]; rfl

/-- Settles O22: the memory is not written, and another one makes no difference. -/
theorem otherCommandsDoNotAccessMemory : Obligations.OtherCommandsDoNotAccessMemory := by
  unfold Obligations.OtherCommandsDoNotAccessMemory
  intro i s t hi hframe h
  refine ⟨(effect_of_exec h).mem_eq hi hframe, fun m => ?_⟩
  rw [show exec i { s with mem := m } = _ from exec_setMem hi hframe m s, h]
  rfl

end Sys2Proof.Machine
end

section
/-! GETFRAME in a session at a command boundary (spec/44_session.md section 4): the registers it loads, and the statements by the
answers it gets. -/

namespace Sys2Proof.Machine

open Sys2Proof.Claims Sys2Proof.Safety

/-! ### The registers of one frame (R210) -/

/-- The registers GETFRAME loads: the buffer's handle and the plane registers (10_state.md R40). -/
def frameWrites : List Reg :=
  [.dstH, .srcBase0, .srcStride0, .srcBase1, .srcStride1, .srcBase2, .srcStride2,
    .dstBase0, .dstStride0, .dstBase1, .dstStride1, .dstBase2, .dstStride2]

theorem get_setSrcPlane (f : RegFile) (p : Plane) (v : PlaneRef) {r : Reg} (hr : r ∉ frameWrites) :
    (setSrcPlane f p v).get r = f.get r := by
  cases r with
  | srcBase0 | srcStride0 | srcBase1 | srcStride1 | srcBase2 | srcStride2 => exact absurd (by decide) hr
  | _ => fin_cases p <;> rfl

theorem get_setDstPlane (f : RegFile) (p : Plane) (v : PlaneRef) {r : Reg} (hr : r ∉ frameWrites) :
    (setDstPlane f p v).get r = f.get r := by
  cases r with
  | dstBase0 | dstStride0 | dstBase1 | dstStride1 | dstBase2 | dstStride2 => exact absurd (by decide) hr
  | _ => fin_cases p <;> rfl

/-- A fold of plane writes leaves every register that none of them writes. -/
theorem get_foldl {write : RegFile → Plane → RegFile} {r : Reg} (h : ∀ f p, (write f p).get r = f.get r)
    (ps : List Plane) (f : RegFile) : (ps.foldl write f).get r = f.get r := by
  induction ps generalizing f with
  | nil => rfl
  | cons p ps ih => exact (ih _).trans (h f p)

/-- The plane registers of a frame, before the handles are written. -/
def loadedPlanes (al : Allocation) (ps : Plane → PlaneRef) (f : RegFile) : RegFile :=
  (planesOf f).foldl (fun g p => setSrcPlane g p (ps p))
    ((planesBelow (destinationPlanes f.cFmt)).foldl (fun g p => setDstPlane g p (allocationPlane al p)) f)

theorem get_loadedPlanes (al : Allocation) (ps : Plane → PlaneRef) (f : RegFile) {r : Reg} (hr : r ∉ frameWrites) :
    (loadedPlanes al ps f).get r = f.get r :=
  (get_foldl (fun g p => get_setSrcPlane g p (ps p) hr) _ _).trans
    (get_foldl (fun g p => get_setDstPlane g p (allocationPlane al p) hr) _ _)

theorem frameRegs_eq (al : Allocation) (ps : Plane → PlaneRef) (f : RegFile) :
    frameRegs al ps f = { loadedPlanes al ps f with dstH := al.dst, frameH := 0 } := rfl

theorem get_frameRegs (al : Allocation) (ps : Plane → PlaneRef) {f : RegFile} (hframe : f.frameH = 0) {r : Reg}
    (hr : r ∉ frameWrites) : (frameRegs al ps f).get r = f.get r := by
  rw [← get_loadedPlanes al ps f hr, frameRegs_eq]
  cases r with
  | dstH => exact absurd (by decide) hr
  | frameH => exact (hframe.symm.trans (get_loadedPlanes al ps f (r := .frameH) (by decide)).symm)
  | _ => rfl

/-- Only the source planes the format has are loaded. -/
theorem frameRegs_congr (al : Allocation) {ps ps' : Plane → PlaneRef} {f : RegFile} (h : ∀ p ∈ planesOf f, ps p = ps' p) :
    frameRegs al ps f = frameRegs al ps' f := by
  have hplanes : loadedPlanes al ps f = loadedPlanes al ps' f :=
    List.foldl_ext _ _ _ fun g p hp => by rw [h p hp]
  rw [frameRegs_eq, frameRegs_eq, hplanes]

/-- The model's `nDst` is the column of R131. -/
theorem nDst_eq_destinationPlanes (c : Word) : nDst c = destinationPlanes c := by
  cases hc : consumerOf c with
  | some x =>
    rw [← (consumerOf_eq_some c x).mp hc, nDst_of_code]
    cases x <;> decide
  | none =>
    have hcode : ∀ x : ConsumerFormat, c ≠ x.code := by
      intro x hx
      rw [(consumerOf_eq_some c x).mpr hx.symm] at hc
      cases hc
    rw [nDst, hc, destinationPlanes, if_neg, if_neg]
    · rfl
    · intro hmem
      fin_cases hmem
      exacts [hcode .p420x8 rfl, hcode .p422x8 rfl, hcode .p444x8 rfl, hcode .p411x8 rfl, hcode .p420x16 rfl,
        hcode .p422x16 rfl, hcode .p444x16 rfl, hcode .p420f32 rfl, hcode .p422f32 rfl, hcode .p444f32 rfl]
    · intro hmem
      fin_cases hmem
      exacts [hcode .y8 rfl, hcode .y16 rfl, hcode .bgr24 rfl, hcode .bgr32 rfl, hcode .yuy2 rfl]

/-- `DST_H` replaced. -/
def withDst (dst : Word) (f : RegFile) : RegFile := { f with dstH := dst }

theorem setDstPlane_withDst (dst : Word) (f : RegFile) (p : Plane) (v : PlaneRef) :
    setDstPlane (withDst dst f) p v = withDst dst (setDstPlane f p v) := by fin_cases p <;> rfl

theorem setSrcPlane_withDst (dst : Word) (f : RegFile) (p : Plane) (v : PlaneRef) :
    setSrcPlane (withDst dst f) p v = withDst dst (setSrcPlane f p v) := by fin_cases p <;> rfl

/-- What GETFRAME writes in its order is what the statements write: the handle of the buffer first or last. -/
theorem foldl_storeAllocation_eq_frameRegs (al : Allocation) (ps : Plane → PlaneRef) {f : RegFile} (hframe : f.frameH = 0) :
    (planesOf f).foldl (fun g p => setSrcPlane g p (ps p)) (storeAllocation al f) = frameRegs al ps f := by
  have hframeH : (loadedPlanes al ps f).frameH = 0 := (get_loadedPlanes al ps f (r := .frameH) (by decide)).trans hframe
  have hstore : storeAllocation al f = withDst al.dst
      ((planesBelow (destinationPlanes f.cFmt)).foldl (fun g p => setDstPlane g p (allocationPlane al p)) f) := by
    rw [storeAllocation, nDst_eq_destinationPlanes]
    exact List.foldl_hom (withDst al.dst) (g₁ := fun g p => setDstPlane g p (allocationPlane al p))
      fun g p => setDstPlane_withDst al.dst g p _
  calc (planesOf f).foldl (fun g p => setSrcPlane g p (ps p)) (storeAllocation al f)
      = withDst al.dst (loadedPlanes al ps f) := by
        rw [hstore]
        exact List.foldl_hom (withDst al.dst) (g₁ := fun g p => setSrcPlane g p (ps p))
          fun g p => setSrcPlane_withDst al.dst g p _
    _ = frameRegs al ps f := by rw [frameRegs_eq, ← hframeH]; rfl

/-! ### The transcoder on the loaded registers -/

/-- The parameter checks read no register that GETFRAME loads. -/
theorem transcoderParamsOk_frameRegs (al : Allocation) (ps : Plane → PlaneRef) {f : RegFile} (hframe : f.frameH = 0)
    (tr : Transcoder) : transcoderParamsOk (frameRegs al ps f) tr = transcoderParamsOk f tr := by
  have hplanes : (frameRegs al ps f).pPlanes = f.pPlanes := get_frameRegs al ps hframe (r := .pPlanes) (by decide)
  have hbps : (frameRegs al ps f).pBps = f.pBps := get_frameRegs al ps hframe (r := .pBps) (by decide)
  have hss : (frameRegs al ps f).pSs = f.pSs := get_frameRegs al ps hframe (r := .pSs) (by decide)
  have hfmt : (frameRegs al ps f).cFmt = f.cFmt := get_frameRegs al ps hframe (r := .cFmt) (by decide)
  cases tr <;>
    simp only [transcoderParamsOk, blitParamsOk, stackParamsOk, bgrParamsOk, hplanes, hbps, hss, hfmt]

/-- `ConvertBody` with the parameters of the selected transcoder accepted (43_transcoders.md R185). -/
theorem convertBody_of_transcoder {s : State} {tr : Transcoder} (hsel : transcoderOf (xselSel s.regs) = some tr)
    (hok : transcoderParamsOk s.regs tr = true) : convertBody s = transfer (transcoderMoves s.regs tr) s := by
  unfold convertBody
  rw [hsel]
  cases tr with
  | blit | stack | bgrpack => exact if_pos hok

/-- `transfer` reads and writes memory alone. -/
theorem transfer_afterEvents (ms : List Move) (s : State) (r : RegFile) (calls : List EnvEvent) (e : Environment) :
    transfer ms (afterEvents s r calls e) = ((transfer ms s).1, afterEvents (transfer ms s).2 r calls e) := by
  unfold transfer
  rw [afterEvents_platform, afterEvents_mem]
  cases runMoves s.platform s.mem ms with
  | none => rfl
  | some m => cases (rowsDisjoint ms && srcDstDisjoint ms) <;> rfl

/-! ### The ways GETFRAME ends, from a session at a boundary -/

section Session

variable {b : Bool} {s : State} (hb : BoundaryRegisters b s.regs) (hready : phaseBits s.regs = Phase.ready.code)

/-- No frame is held between commands (R216 a). -/
theorem no_frame_of_boundary {f : RegFile} (hb : BoundaryRegisters b f) : haveFrame f = false ∧ f.frameH = 0 := by
  obtain ⟨-, -, -, hframe, hframeH, -⟩ := hb
  exact ⟨hframe, hframeH⟩

theorem exec_getframe_of_answers (n : Word) (hready : phaseBits s.regs = Phase.ready.code) (hans : EnvAnswers s)
    (hok : convertParamsOk s.regs = true) : exec (.getframe n) s = .next (getframeBody n s) := by
  have hin : inSession s.regs = true := inSession_of_phaseBits hready
  rw [exec, execGetframe, if_pos hin, if_pos hok, afterCalls_of_answers _ _ hans]

theorem convertParamsOk_of_transcoder {f : RegFile} {tr : Transcoder} (hsel : transcoderOf (xselSel f) = some tr)
    (hok : transcoderParamsOk f tr = true) : convertParamsOk f = true := by
  rw [convertParamsOk, hsel]
  exact hok

include hb hready

/-- The registers after GETFRAME: as they were, or with a frame loaded. -/
theorem getframeBody_regs (n : Word) :
    (getframeBody n s).regs = s.regs ∨ ∃ al ps, (getframeBody n s).regs = frameRegs al ps s.regs := by
  obtain ⟨hframe, hframeH⟩ := no_frame_of_boundary hb
  rcases getframeBody_cases n s hready hframe hframeH with ⟨e, hbody, -⟩ | ⟨fr, e, hbody, -⟩ | ⟨fr, al, a, e, hbody, -⟩
  · exact .inl (by rw [hbody]; rfl)
  · exact .inl (by rw [hbody]; rfl)
  · refine .inr ⟨al, a, ?_⟩
    rw [← foldl_storeAllocation_eq_frameRegs al a hframeH, hbody]
    generalize hc : convertBody _ = r
    have hregs := convertBody_regs (afterEvents s ((planesOf s.regs).foldl (fun g p => setSrcPlane g p (a p))
      (storeAllocation al s.regs)) ([.getFrame s.regs.nodeH n (some fr), .allocFrame s.regs.cFmt s.regs.cWidth
        s.regs.cHeight (some al)] ++ (planesOf s.regs).map fun p => .getPlaneData fr p (a p)) e)
    rw [hc] at hregs
    obtain ⟨_ | err, u⟩ := r <;> exact hregs

/-- GETFRAME with the answers of one frame prepared: the calls, the registers and the moves of the transcoder. -/
theorem getframeBody_of_answersFrame (n : Word) {fr : Word} {al : Allocation} {ps : Plane → PlaneRef} {tr : Transcoder}
    (hsel : transcoderOf (xselSel s.regs) = some tr) (hok : transcoderParamsOk s.regs tr = true)
    (hprep : AnswersFrame s fr al ps) :
    ∃ e, getframeBody n s = frameAnswer (transfer (transcoderMoves (frameRegs al ps s.regs) tr) s).1 al.dst
      (afterEvents (transfer (transcoderMoves (frameRegs al ps s.regs) tr) s).2 (frameRegs al ps s.regs)
        (frameCalls s.regs n fr al ps) e) := by
  obtain ⟨hframe, hframeH⟩ := no_frame_of_boundary hb
  obtain ⟨hfr, hal, rest, hplanes⟩ := hprep
  rcases getframeBody_cases n s hready hframe hframeH with ⟨e, -, h⟩ | ⟨fr', e, -, -, h⟩ | ⟨fr', al', a, e, hbody, h1, h2, h3⟩
  · cases h _ hfr
  · cases h _ hal
  · cases h1 _ hfr
    cases h2 _ hal
    have hps := h3 ps rest hplanes
    have hcalls : (planesOf s.regs).map (fun p => EnvEvent.getPlaneData fr p (a p)) =
        (planesOf s.regs).map fun p => .getPlaneData fr p (ps p) :=
      List.map_congr_left fun p hp => by rw [hps p hp]
    refine ⟨e, ?_⟩
    rw [foldl_storeAllocation_eq_frameRegs al a hframeH, frameRegs_congr al hps, hcalls] at hbody
    have hxsel : xselSel (frameRegs al ps s.regs) = xselSel s.regs :=
      congrArg (bits · 0 2) (get_frameRegs al ps hframeH (r := .xsel) (by decide))
    have hconv := fun calls => convertBody_of_transcoder (s := afterEvents s (frameRegs al ps s.regs) calls e)
      (hxsel ▸ hsel) ((transcoderParamsOk_frameRegs al ps hframeH tr).trans hok)
    rw [hbody, hconv, afterEvents_regs, transfer_afterEvents, record_eq, afterEvents_afterEvents]
    rfl

/-- GETFRAME with the answers of one frame prepared and every call answered: how it ends is how the moves end. -/
theorem exec_getframe_of_answersFrame (hans : EnvAnswers s) (hmem : s.mem.wf) (n : Word) {fr : Word} {al : Allocation}
    {ps : Plane → PlaneRef} {tr : Transcoder} (hsel : transcoderOf (xselSel s.regs) = some tr)
    (hok : transcoderParamsOk s.regs tr = true) (hprep : AnswersFrame s fr al ps) {r : Option ErrCode}
    (hr : (transfer (transcoderMoves (frameRegs al ps s.regs) tr) s).1 = r) :
    ∃ (t u : State), exec (.getframe n) s = .next t ∧ t = frameAnswer r al.dst u ∧ u.regs = frameRegs al ps s.regs ∧
      u.trace = s.trace ++ frameCalls s.regs n fr al ps ∧ u.responses = s.responses ∧
      u.mem = (transfer (transcoderMoves (frameRegs al ps s.regs) tr) s).2.mem ∧
      ∀ a : Word, a ∉ destBytes (transcoderMoves (frameRegs al ps s.regs) tr) → memByte u.mem a = memByte s.mem a := by
  obtain ⟨e, hbody⟩ := getframeBody_of_answersFrame hb hready n hsel hok hprep
  rw [hr] at hbody
  have hexec := exec_getframe_of_answers n hready hans (convertParamsOk_of_transcoder hsel hok)
  have hframe := (transfer_spec (transcoderMoves (frameRegs al ps s.regs) tr) s hmem).2.1
  refine ⟨_, _, hexec, hbody, rfl, ?_, ?_, rfl, hframe⟩
  · rw [afterEvents_trace, transfer_trace]
  · rw [afterEvents_responses, transfer_responses]

end Session

/-! ### The statements -/

/-- Settles O51: with every access admitted the moves complete and GETFRAME answers the buffer's handle. -/
theorem getframeConvertsOneFrame : Obligations.GetframeConvertsOneFrame := by
  unfold Obligations.GetframeConvertsOneFrame
  intro s n fr al ps tr hmem hb hans hready hsel hok hprep hadmit
  have hr : (transfer (transcoderMoves (frameRegs al ps s.regs) tr) s).1 = none := by
    rw [transfer_fst]
    exact if_pos hadmit
  obtain ⟨t, u, hexec, rfl, hregs, htrace, hresp, hmem', hframe⟩ :=
    exec_getframe_of_answersFrame hb hready hans hmem n hsel hok hprep hr
  exact ⟨_, hexec, hregs, htrace, congrArg (· ++ [_]) hresp, hmem', hframe⟩

/-- Settles O52: with an access refused the moves end in `E_MEM`, and the frame is released all the same. -/
theorem getframeReleasesTheFrameOnEMem : Obligations.GetframeReleasesTheFrameOnEMem := by
  unfold Obligations.GetframeReleasesTheFrameOnEMem
  intro s n fr al ps tr hmem hb hans hready hsel hok hprep hrefused
  have hr : (transfer (transcoderMoves (frameRegs al ps s.regs) tr) s).1 = some .mem := by
    rw [transfer_fst]
    exact if_neg hrefused
  obtain ⟨t, u, hexec, rfl, hregs, htrace, hresp, -, hframe⟩ :=
    exec_getframe_of_answersFrame hb hready hans hmem n hsel hok hprep hr
  exact ⟨_, hexec, hregs, htrace, congrArg (· ++ [_]) hresp, hframe⟩

/-- Settles O53: a prepared failure decides which way GETFRAME ends, before any register is loaded. -/
theorem getframeFailuresKeepTheSession : Obligations.GetframeFailuresKeepTheSession := by
  unfold Obligations.GetframeFailuresKeepTheSession
  intro s n hb hans hready hok
  obtain ⟨hframe, hframeH⟩ := no_frame_of_boundary hb
  have hexec := exec_getframe_of_answers n hready hans hok
  have hcases := getframeBody_cases n s hready hframe hframeH
  refine ⟨fun hfr => ?_, fun fr hfr hal => ?_⟩
  · rcases hcases with ⟨e, hbody, -⟩ | ⟨_, _, -, h, -⟩ | ⟨_, _, _, _, -, h, -⟩
    · exact ⟨_, hexec, by rw [hbody]; exact ⟨rfl, rfl, rfl, rfl⟩⟩
    · cases h _ hfr
    · cases h _ hfr
  · rcases hcases with ⟨_, -, h⟩ | ⟨fr', e, hbody, h, -⟩ | ⟨_, _, _, _, -, -, h, -⟩
    · cases h _ hfr
    · cases h _ hfr
      exact ⟨_, hexec, by rw [hbody]; exact ⟨rfl, rfl, rfl, rfl⟩⟩
    · cases h _ hal

/-- Settles O21: in READY only CLOSE and GETFRAME write registers, and GETFRAME those it loads. -/
theorem sessionFieldsAreReadOnly : Obligations.SessionFieldsAreReadOnly := by
  unfold Obligations.SessionFieldsAreReadOnly
  intro i s t hb hready hclose h r hr
  have hsession : inSession s.regs = true := inSession_of_phaseBits hready
  cases effect_of_exec h with
  | answers => rfl
  | registers _ hidle | transfers _ hidle | opens _ hidle => rw [hsession] at hidle; cases hidle
  | fetches n =>
    rcases getframeBody_regs hb hready n with hregs | ⟨al, ps, hregs⟩
    · rw [hregs]
    · rw [hregs]
      exact get_frameRegs al ps (no_frame_of_boundary hb).2 hr
  | closes hi => exact absurd hi hclose

end Sys2Proof.Machine
end

section
/-! The invariants of a command boundary (spec/44_session.md R216): every command keeps the register invariants and the balance of
the trace, so every step does, and outside a session nothing is held. -/

namespace Sys2Proof.Machine

open Sys2Proof.Claims Sys2Proof.Safety

/-! ### Registers that OPEN and CLOSE leave -/

theorem ConsumerFormat.code_lt (x : ConsumerFormat) : x.code.toNat < 16 := by cases x <;> decide

theorem PackingMode.code_lt (m : PackingMode) : m.code.toNat < 3 := by cases m <;> decide

/-- The values of XSEL that SELECT writes: FLIP only with BLIT (R37). -/
theorem xsel_wellFormed (t : Transcoder) {P : Prop} [Decidable P] (hP : P → t = .blit) :
    t.code + (if P then 4 else 0) = 0 ∨ t.code + (if P then 4 else 0) = 1 ∨ t.code + (if P then 4 else 0) = 2 ∨
      t.code + (if P then 4 else 0) = 4 := by
  by_cases h : P
  · rw [if_pos h, hP h]
    decide
  · rw [if_neg h]
    cases t <;> decide

theorem boundaryRegisters_failedRegs {b : Bool} {f : RegFile} (hctrl : f.ctrl &&& 0x0000FF07 = f.ctrl) {err : ErrCode}
    (herr : err.code.toNat ≤ 8) {diag : Word} (hdiag : err ≠ .scriptEval → diag = 0) :
    BoundaryRegisters b (failedRegs err diag f) := by
  have h := StatusIs.failed err
  have hfailed : phaseBits (failedRegs err diag f) = Phase.failed.code := h.phase
  have herrBits : errBits (failedRegs err diag f) = err.code := h.err
  refine ⟨⟨hctrl, h.reserved, h.high, (by decide : (0 : Word).toNat < 16), (by decide : (0 : Word).toNat < 3),
      .inl rfl⟩, .inr (.inr hfailed), ⟨fun _ => ?_, fun hne => ?_,
    fun hne => ?_⟩, h.frame, rfl, fun _ => ⟨h.engine, h.ctx, h.node, rfl, rfl⟩, fun hready => ?_⟩
  · rw [herrBits]
    exact ⟨err.code_toNat_pos, herr⟩
  · exact absurd hfailed hne
  · rw [herrBits] at hne
    exact hdiag fun heq => hne (congrArg ErrCode.code heq)
  · exact absurd (Phase.code_injective (hfailed.symm.trans hready)) (by decide)

/-- What RESOLVE and SELECT compute from the registers of a session is what they hold (R216 c). -/
theorem resolvedFrom_readyRegs (b : Bool) (c nd : Word) (d : Descriptor) (f : RegFile) :
    resolvedFrom b (readyRegs b c nd d f) = readyRegs b c nd d f := by
  have hflip : ∀ sel c, (if flipBit b sel c = true then 4 else 0 : Word) = if sel = .blit ∧ c = 14 ∧ b = true then 4 else 0 :=
    fun sel c => if_congr (flipBit_iff b sel c) rfl rfl
  unfold resolvedFrom runSelect
  simp only [hflip]
  rw [runMap_eq]
  unfold runResolve
  simp only [ctrlStackedReq_eq_getLsbD]
  rfl

theorem boundaryRegisters_readyRegs {b : Bool} {f : RegFile} (hctrl : f.ctrl &&& 0x0000FF07 = f.ctrl) (c nd : Word)
    {d : Descriptor} (hok : descriptorError (f.ctrl.getLsbD 0) d = none) : BoundaryRegisters b (readyRegs b c nd d f) := by
  have h := StatusIs.session
  have hready : phaseBits (readyRegs b c nd d f) = Phase.ready.code := h.phase
  have hformat : (readyRegs b c nd d f).cFmt ≠ 0 := by
    refine fun h0 => ?_
    have hmap := (ConsumerFormat.code_eq_zero_iff _).mp h0
    simp only [descriptorError, hmap, if_true] at hok
    split_ifs at hok
  refine ⟨⟨hctrl, h.reserved, h.high, ConsumerFormat.code_lt _, PackingMode.code_lt _, xsel_wellFormed _ fun h => h.1⟩,
    .inr (.inl hready), ⟨fun hfailed => ?_, fun _ => h.err, fun _ => rfl⟩, h.frame, rfl, fun hne => ?_,
    fun _ => ⟨h.engine, h.ctx, h.node, hformat, resolvedFrom_readyRegs b c nd d f⟩⟩
  · exact absurd (Phase.code_injective (hready.symm.trans hfailed)) (by decide)
  · exact absurd hready hne

/-! ### Registers the idle commands write -/

theorem hostValue_ctrl_masked (imm : Word) : hostValue .ctrl imm &&& 0x0000FF07 = hostValue .ctrl imm := by
  rw [hostValue, if_pos rfl, BitVec.and_assoc, BitVec.and_self]

/-- The commands of the idle phases keep the registers well formed (10_state.md R23, R35 to R37). -/
theorem RegistersWritten.wellFormed {b : Bool} {f g : RegFile} {i : Instr} (hf : RegistersWellFormed f)
    (h : RegistersWritten b f i g) : RegistersWellFormed g := by
  obtain ⟨hctrl, h7, h16, hcfmt, hpmode, hxsel⟩ := hf
  cases i with
  | setr ra imm =>
    obtain ⟨r, hwr, rfl⟩ := h
    cases r with
    | ctrl => exact ⟨hostValue_ctrl_masked imm, h7, h16, hcfmt, hpmode, hxsel⟩
    | status | diag | cFmt | pmode | xsel | cWidth | cHeight | cFrames | cFpsnum | cFpsden | ctxH | nodeH | frameH | dstH =>
      cases hwr
    | _ => exact ⟨hctrl, h7, h16, hcfmt, hpmode, hxsel⟩
  | map => cases h; exact ⟨hctrl, h7, h16, ConsumerFormat.code_lt _, hpmode, hxsel⟩
  | resolve => cases h; exact ⟨hctrl, h7, h16, hcfmt, PackingMode.code_lt _, hxsel⟩
  | select =>
    cases h
    exact ⟨hctrl, h7, h16, hcfmt, hpmode, xsel_wellFormed _ fun h => ((flipBit_iff b _ _).mp h).1⟩
  | _ => cases h

/-- They leave what says what is held and what failed. -/
theorem RegistersWritten.keeps {b : Bool} {f g : RegFile} {i : Instr} (h : RegistersWritten b f i g) :
    g.status = f.status ∧ g.diag = f.diag ∧ g.ctxH = f.ctxH ∧ g.nodeH = f.nodeH ∧ g.frameH = f.frameH := by
  cases i with
  | setr ra imm =>
    obtain ⟨r, hwr, rfl⟩ := h
    cases r with
    | status | diag | cFmt | pmode | xsel | cWidth | cHeight | cFrames | cFpsnum | cFpsden | ctxH | nodeH | frameH | dstH =>
      cases hwr
    | _ => exact ⟨rfl, rfl, rfl, rfl, rfl⟩
  | map | resolve | select => cases h; exact ⟨rfl, rfl, rfl, rfl, rfl⟩
  | _ => cases h

/-- Outside READY the boundary asks nothing of the resolved registers but their form. -/
theorem boundaryRegisters_of_registersWritten {b : Bool} {f g : RegFile} {i : Instr} (hb : BoundaryRegisters b f)
    (hidle : inSession f = false) (h : RegistersWritten b f i g) : BoundaryRegisters b g := by
  obtain ⟨hwf, hphase, herror, hframe, hframeH, hidleOwns, -⟩ := hb
  obtain ⟨hstatus, hdiag, hctxH, hnodeH, hframeH'⟩ := h.keeps
  have hne : phaseBits f ≠ Phase.ready.code := beq_eq_false_iff_ne.mp hidle
  refine ⟨h.wellFormed hwf, ?_, ?_, ?_, hframeH'.trans hframeH, ?_, ?_⟩
  · rwa [BoundaryPhase, phaseBits, hstatus]
  · rwa [ErrorFieldsConsistent, phaseBits, errBits, hstatus, hdiag]
  · rwa [haveFrame, hstatus]
  · rw [phaseBits, haveEngine, haveCtx, haveNode, hstatus, hctxH, hnodeH]
    exact hidleOwns
  · rw [phaseBits, hstatus]
    exact fun hready => absurd hready hne

/-! ### Registers GETFRAME loads -/

/-- `f` with the registers a frame loads taken from `g`. -/
def withFrameOf (g f : RegFile) : RegFile :=
  { f with dstH := g.dstH, srcBase0 := g.srcBase0, srcStride0 := g.srcStride0, srcBase1 := g.srcBase1,
           srcStride1 := g.srcStride1, srcBase2 := g.srcBase2, srcStride2 := g.srcStride2, dstBase0 := g.dstBase0,
           dstStride0 := g.dstStride0, dstBase1 := g.dstBase1, dstStride1 := g.dstStride1, dstBase2 := g.dstBase2,
           dstStride2 := g.dstStride2 }

theorem eq_withFrameOf {f g : RegFile} (h : ∀ r, r ∉ frameWrites → g.get r = f.get r) : g = withFrameOf g f := by
  refine RegFile.ext_get _ _ fun r => ?_
  by_cases hr : r ∈ frameWrites
  · fin_cases hr <;> rfl
  · rw [h r hr]
    cases r with
    | dstH | srcBase0 | srcStride0 | srcBase1 | srcStride1 | srcBase2 | srcStride2 | dstBase0 | dstStride0 | dstBase1
    | dstStride1 | dstBase2 | dstStride2 => exact absurd (by decide) hr
    | _ => rfl

/-- The boundary does not speak of the registers a frame loads. -/
theorem boundaryRegisters_of_frameWrites {b : Bool} {f g : RegFile} (hb : BoundaryRegisters b f)
    (h : ∀ r, r ∉ frameWrites → g.get r = f.get r) : BoundaryRegisters b g := by
  rw [eq_withFrameOf h]
  obtain ⟨hwf, hphase, herror, hframe, hframeH, hidleOwns, hsession⟩ := hb
  refine ⟨hwf, hphase, herror, hframe, hframeH, hidleOwns, fun hready => ?_⟩
  obtain ⟨hengine, hctx, hnode, hformat, hresolved⟩ := hsession hready
  refine ⟨hengine, hctx, hnode, hformat, ?_⟩
  calc resolvedFrom b (withFrameOf g f) = withFrameOf g (resolvedFrom b f) := rfl
    _ = withFrameOf g f := by rw [hresolved]

/-! ### The register invariant -/

/-- OPEN from a boundary outside READY ends at a boundary. -/
theorem boundaryRegisters_openBody {s : State} (hb : BoundaryRegisters s.platform.bgr32Flip s.regs)
    (hidle : inSession s.regs = false) : BoundaryRegisters s.platform.bgr32Flip (openBody s).regs := by
  have hne : phaseBits s.regs ≠ Phase.ready.code := beq_eq_false_iff_ne.mp hidle
  have hctrl : s.regs.ctrl &&& 0x0000FF07 = s.regs.ctrl := hb.1.1
  obtain ⟨w, e, -, hbody⟩ := openBody_cases s
  rw [hbody]
  cases herr : w.error (s.regs.ctrl.getLsbD 0) with
  | some err =>
    rw [OpenAnswers.final_failed hb hne herr]
    have hctrl' : (w.described s.regs).ctrl &&& 0x0000FF07 = (w.described s.regs).ctrl := by cases w <;> exact hctrl
    refine boundaryRegisters_failedRegs hctrl' (OpenAnswers.error_code_le herr) fun hscript => ?_
    cases w with
    | noScript => cases herr; exact absurd rfl hscript
    | _ => rfl
  | none =>
    obtain ⟨c, nd, d, rfl, hok⟩ := OpenAnswers.exists_source_of_error_eq_none herr
    rw [OpenAnswers.final_ready hb hne hok]
    exact boundaryRegisters_readyRegs hctrl c nd hok

/-- Every command keeps the register invariants. -/
theorem Effect.boundaryRegisters {i : Instr} {s t : State} (h : Effect i s t)
    (hb : BoundaryRegisters s.platform.bgr32Flip s.regs) : BoundaryRegisters t.platform.bgr32Flip t.regs := by
  rw [h.continues.platform]
  cases h with
  | answers => exact hb
  | registers f hidle hf => exact boundaryRegisters_of_registersWritten hb hidle hf
  | transfers => rwa [endTransfer_transfer_regs]
  | opens _ hidle => exact boundaryRegisters_openBody hb hidle
  | fetches n _ hsession =>
    rcases getframeBody_regs hb (beq_iff_eq.mp hsession) n with hregs | ⟨al, ps, hregs⟩
    · rwa [hregs]
    · rw [hregs]
      exact boundaryRegisters_of_frameWrites hb fun r hr => get_frameRegs al ps (no_frame_of_boundary hb).2 hr
  | closes =>
    rw [closeBody_eq]
    exact boundaryRegisters_of_cleared _ hb.1.1 rfl rfl rfl rfl rfl ⟨rfl, rfl, rfl⟩

/-- Settles O17: the invariant is kept by every command, and a step's answer and index do not touch registers. -/
theorem stepKeepsBoundaryRegisters : Obligations.StepKeepsBoundaryRegisters := by
  unfold Obligations.StepKeepsBoundaryRegisters
  intro s t hb h
  exact step_keeps (P := fun u => BoundaryRegisters u.platform.bgr32Flip u.regs) (fun _ _ => id) (fun _ => id)
    (fun _ _ _ hu hexec => (effect_of_exec hexec).boundaryRegisters hu) hb h

/-! ### The ledger -/

/-- The calls made from `s` to `t` turn what the registers held into what they hold. -/
def CallsAccounted (s t : State) : Prop :=
  ∃ calls, t.trace = s.trace ++ calls ∧ ledgerRun (heldBy s.regs) calls = some (heldBy t.regs)

theorem CallsAccounted.of_eq {s t : State} (htrace : t.trace = s.trace) (hheld : heldBy t.regs = heldBy s.regs) :
    CallsAccounted s t :=
  ⟨[], by rw [htrace, List.append_nil], by rw [hheld]; rfl⟩

theorem CallsAccounted.balanced {s t : State} (h : CallsAccounted s t) (hs : TraceBalanced s) : TraceBalanced t := by
  obtain ⟨calls, htrace, hrun⟩ := h
  rw [TraceBalanced, htrace, ledgerRun_append, show ledgerRun Ledger.empty s.trace = some (heldBy s.regs) from hs]
  exact hrun

theorem heldBy_of_idle {b : Bool} {f : RegFile} (hb : BoundaryRegisters b f) (hidle : phaseBits f ≠ Phase.ready.code) :
    heldBy f = Ledger.empty := by
  obtain ⟨p, -, hstatus⟩ := statusIs_of_idle hb hidle
  exact heldBy_of_statusIs hstatus

theorem heldBy_of_ready {b : Bool} {f : RegFile} (hb : BoundaryRegisters b f) (hready : phaseBits f = Phase.ready.code) :
    heldBy f = { engine := true, ctx := some f.ctxH, node := some f.nodeH, frame := none } := by
  obtain ⟨-, -, -, hframe, -, -, hsession⟩ := hb
  obtain ⟨hengine, hctx, hnode, -⟩ := hsession hready
  simp [heldBy, hengine, hctx, hnode, hframe]

/-- The releases give back all that is held but a frame. -/
theorem ledgerRun_closeCalls {f : RegFile} (hframe : haveFrame f = false) :
    ledgerRun (heldBy f) (closeCalls f) = some Ledger.empty := by
  cases hengine : haveEngine f <;> cases hctx : haveCtx f <;> cases hnode : haveNode f <;>
    simp [closeCalls, heldBy, hengine, hctx, hnode, hframe, ledgerRun, ledgerStep, Ledger.empty]

/-- Plane queries on the frame that is held change nothing. -/
theorem ledgerRun_getPlaneData {l : Ledger} {fr : Word} (hl : l.frame = some fr) (a : Plane → PlaneRef) (ps : List Plane) :
    ledgerRun l (ps.map fun p => .getPlaneData fr p (a p)) = some l := by
  induction ps with
  | nil => rfl
  | cons p ps ih => simp [ledgerRun, ledgerStep, hl, ih]

/-- One frame, converted or not, is obtained and given back. -/
theorem ledgerRun_frame {l : Ledger} {node : Word} (hnode : l.node = some node) (hframe : l.frame = none) (n fr c w h : Word)
    (al : Allocation) (a : Plane → PlaneRef) (ps : List Plane) :
    ledgerRun l (([.getFrame node n (some fr), .allocFrame c w h (some al)] ++ ps.map fun p => .getPlaneData fr p (a p)) ++
      [.releaseFrame fr]) = some l := by
  obtain ⟨engine, ctx, _, _⟩ := l
  subst hnode hframe
  simp [ledgerRun_append, ledgerRun, ledgerStep, ledgerRun_getPlaneData]

theorem callsAccounted_openBody {s : State} (hb : BoundaryRegisters s.platform.bgr32Flip s.regs)
    (hidle : inSession s.regs = false) : CallsAccounted s (openBody s) := by
  have hne : phaseBits s.regs ≠ Phase.ready.code := beq_eq_false_iff_ne.mp hidle
  obtain ⟨w, e, -, hbody⟩ := openBody_cases s
  rw [hbody, CallsAccounted, heldBy_of_idle hb hne]
  cases herr : w.error (s.regs.ctrl.getLsbD 0) with
  | some err =>
    rw [OpenAnswers.final_failed hb hne herr]
    refine ⟨w.calls s.regs ++ w.releases, rfl, ?_⟩
    rw [ledgerRun_append, ledgerRun_openCalls, Option.bind_some, ledgerRun_releases]
    exact congrArg some (heldBy_failedRegs err _ _).symm
  | none =>
    obtain ⟨c, nd, d, rfl, hok⟩ := OpenAnswers.exists_source_of_error_eq_none herr
    rw [OpenAnswers.final_ready hb hne hok]
    refine ⟨openCalls s.regs c nd d, rfl, ?_⟩
    exact (ledgerRun_openCalls (.source c nd d) s.regs).trans (congrArg some (heldBy_readyRegs _ c nd d s.regs).symm)

theorem frameAnswer_trace (r : Option ErrCode) (dst : Word) (s : State) : (frameAnswer r dst s).trace = s.trace := by
  cases r <;> rfl

theorem callsAccounted_getframeBody {s : State} (hb : BoundaryRegisters s.platform.bgr32Flip s.regs)
    (hsession : inSession s.regs = true) (n : Word) : CallsAccounted s (getframeBody n s) := by
  have hready : phaseBits s.regs = Phase.ready.code := beq_iff_eq.mp hsession
  obtain ⟨hframe, hframeH⟩ := no_frame_of_boundary hb
  have hheld : heldBy (getframeBody n s).regs = heldBy s.regs := by
    rcases getframeBody_regs hb hready n with hregs | ⟨al, ps, hregs⟩
    · rw [hregs]
    · rw [hregs, eq_withFrameOf fun r hr => get_frameRegs al ps hframeH hr]
      rfl
  rw [CallsAccounted, hheld, heldBy_of_ready hb hready]
  rcases getframeBody_cases n s hready hframe hframeH with ⟨e, hbody, -⟩ | ⟨fr, e, hbody, -⟩ | ⟨fr, al, a, e, hbody, -⟩
  · rw [hbody]
    exact ⟨_, rfl, by simp [ledgerRun, ledgerStep]⟩
  · rw [hbody]
    exact ⟨_, rfl, by simp [ledgerRun, ledgerStep]⟩
  · refine ⟨_, ?_, ledgerRun_frame (by rfl) (by rfl) n fr s.regs.cFmt s.regs.cWidth s.regs.cHeight al a (planesOf s.regs)⟩
    rw [hbody, frameAnswer_trace, record_trace, convertBody_trace, afterEvents_trace, List.append_assoc]

/-- Every command accounts for its calls (R216 d, e). -/
theorem Effect.callsAccounted {i : Instr} {s t : State} (h : Effect i s t)
    (hb : BoundaryRegisters s.platform.bgr32Flip s.regs) : CallsAccounted s t := by
  cases h with
  | answers => exact .of_eq rfl rfl
  | registers f hidle hf =>
    obtain ⟨hstatus, -, hctxH, hnodeH, hframeH⟩ := hf.keeps
    refine .of_eq rfl ?_
    calc heldBy f = heldBy s.regs := by
          rw [heldBy, haveEngine, haveCtx, haveNode, haveFrame, hstatus, hctxH, hnodeH, hframeH]
          rfl
  | transfers => exact .of_eq (endTransfer_trace _ s) (congrArg heldBy (endTransfer_transfer_regs _ s))
  | opens _ hidle => exact callsAccounted_openBody hb hidle
  | fetches n _ hsession => exact callsAccounted_getframeBody hb hsession n
  | closes =>
    rw [closeBody_eq]
    refine ⟨closeCalls s.regs, rfl, (ledgerRun_closeCalls (no_frame_of_boundary hb).1).trans ?_⟩
    exact congrArg some (heldBy_clearForClose s.regs).symm

theorem traceBalanced_of_step {s t : State} (hb : BoundaryRegisters s.platform.bgr32Flip s.regs) (hs : TraceBalanced s)
    (h : step s = .next t) : TraceBalanced t :=
  (step_keeps (P := fun u => BoundaryRegisters u.platform.bgr32Flip u.regs ∧ TraceBalanced u) (fun _ _ => id) (fun _ => id)
    (fun _ _ _ hu hexec => ⟨(effect_of_exec hexec).boundaryRegisters hu.1,
      ((effect_of_exec hexec).callsAccounted hu.1).balanced hu.2⟩) ⟨hb, hs⟩ h).2

/-- Settles O18: every command accounts for its calls, and a step's answer and index make none. -/
theorem stepKeepsTraceBalanced : Obligations.StepKeepsTraceBalanced := by
  unfold Obligations.StepKeepsTraceBalanced
  exact fun s t => traceBalanced_of_step

/-- Settles O19: the trace stays balanced against the registers, and at a boundary outside READY these hold nothing. -/
theorem outsideASessionNothingIsHeld : Obligations.OutsideASessionNothingIsHeld := by
  unfold Obligations.OutsideASessionNothingIsHeld
  rintro s t ⟨-, hb, hbalanced⟩ h hidle
  have ht : TraceBalanced t := traceBalanced_of_step hb hbalanced h
  rwa [TraceBalanced, heldBy_of_idle (stepKeepsBoundaryRegisters s t hb h) hidle] at ht

end Sys2Proof.Machine
end

section
/-! Addresses, samples and rows by themselves: the little-endian sample read (20_memory.md R64, R65), row addresses modulo 2^32
(R63), the lanes of the stacked-pack engine (43_transcoders.md R177 to R181) and the row lengths of the transcoders
(42_geometry_and_select.md R160, R161). -/

namespace Sys2Proof.Machine

open Sys2Proof.Claims Sys2Proof.Safety

/-! ### Addresses -/

/-- Settles O44: the value is the concatenation of the two bytes, the one at the higher address first. -/
theorem sampleReadIsLittleEndian : Obligations.SampleReadIsLittleEndian := by
  unfold Obligations.SampleReadIsLittleEndian
  refine fun pl m a => ⟨fun hlow hhigh => ⟨memByte m (a + 1) ++ memByte m a, ?_, ?_⟩, fun hrefused => ?_⟩
  · rw [memRead2, hlow, hhigh]
    rfl
  · rw [toNat_append_eq_add]
    omega
  · rw [memRead2, Bool.and_eq_false_iff.mpr hrefused]
    rfl

theorem rowAddr_eq (pl : PlaneRef) (r : Nat) : rowAddr pl r = pl.base + BitVec.ofNat 32 r * pl.stride :=
  u32_add_mul_signed32 pl.base r pl.stride

/-- Walking `y` rows against the stride subtracts them, modulo 2^32. -/
theorem u32_add_mul_neg_signed32 (b : Word) (y : Nat) (st : Word) :
    u32 (b.toNat + y * -(signed32 st)) = b - BitVec.ofNat 32 y * st := by
  rw [u32, signed32_eq_toInt, Int.mul_neg, BitVec.ofInt_add, BitVec.ofInt_neg, BitVec.ofInt_mul, BitVec.ofInt_toInt,
    BitVec.ofInt_natCast, BitVec.ofInt_natCast, BitVec.ofNat_toNat, BitVec.setWidth_eq, BitVec.sub_eq_add_neg]

/-- Settles O45: row `rows - 1` is `y` strides beyond row `rows - 1 - y`. -/
theorem reversedRowsNegateThePitch : Obligations.ReversedRowsNegateThePitch := by
  unfold Obligations.ReversedRowsNegateThePitch
  refine ⟨rowAddr_eq, fun pl rows y hy => ?_⟩
  obtain ⟨r, hr⟩ : ∃ r, rows - 1 = r + y := ⟨rows - 1 - y, by omega⟩
  rw [u32_add_mul_neg_signed32, hr, Nat.add_sub_cancel, rowAddr_eq, rowAddr_eq, BitVec.ofNat_add]
  ring

/-! ### Lanes -/

/-- Both packs keep a value that fits a byte (R178). -/
theorem packSaturate_of_le {v : Sample} (h : v.toNat ≤ 255) : packSaturate v = packTruncate v := if_pos h

theorem shift_toNat_le (s : Sample) : (s >>> 8).toNat ≤ 255 := by
  have hs := s.isLt
  rw [BitVec.toNat_ushiftRight, Nat.shiftRight_eq_div_pow]
  omega

theorem mask_toNat_le (s : Sample) : (s &&& 0x00FF).toNat ≤ 255 := by
  rw [BitVec.toNat_and]
  exact Nat.and_le_right

/-- A pack for which both lanes give the bytes of the split. -/
def PacksBytes (pack : Sample → Byte) : Prop := ∀ s : Sample, pack (s >>> 8) = sampleMsb s ∧ pack (s &&& 0x00FF) = sampleLsb s

theorem packsBytes_truncate : PacksBytes packTruncate := fun _ => ⟨rfl, rfl⟩

theorem packsBytes_saturate : PacksBytes packSaturate := fun s =>
  ⟨packSaturate_of_le (shift_toNat_le s), packSaturate_of_le (mask_toNat_le s)⟩

/-- Any number of lanes and a scalar rest give what the scalar path gives. -/
theorem laneRow_eq_scalarRow {pack : Sample → Byte} (hpack : PacksBytes pack) (lane k : Nat) (row : List Sample) :
    laneRow pack lane k row = scalarRow row := by
  induction k generalizing row with
  | zero => rfl
  | succ k ih =>
    have hmsb : msbLane pack (row.take lane) = (row.take lane).map sampleMsb := List.map_congr_left fun s _ => (hpack s).1
    have hlsb : lsbLane pack (row.take lane) = (row.take lane).map sampleLsb := List.map_congr_left fun s _ => (hpack s).2
    rw [laneRow, ih, hmsb, hlsb, scalarRow, scalarRow, ← List.map_append, ← List.map_append, List.take_append_drop]

/-- Settles O43: both packs keep the bytes of the split. -/
theorem lanesEqualTheScalarPath : Obligations.LanesEqualTheScalarPath := by
  unfold Obligations.LanesEqualTheScalarPath
  exact fun lane row => ⟨laneRow_eq_scalarRow packsBytes_truncate lane _ row, laneRow_eq_scalarRow packsBytes_saturate lane _ row⟩

/-! ### Row lengths -/

theorem planeGeometry_bgr32 {f : RegFile} (h : f.cFmt = 14) (p : Plane) :
    planeGeometry f p = { width := f.pWidth, rows := f.pHeight, rowBytes := f.pWidth * 4 } := if_pos h

theorem planeGeometry_yuy2 {f : RegFile} (h : f.cFmt = 15) (p : Plane) :
    planeGeometry f p = { width := f.pWidth, rows := f.pHeight, rowBytes := f.pWidth * 2 } := by
  rw [planeGeometry, h]
  rfl

theorem planeGeometry_luma {f : RegFile} (h14 : f.cFmt ≠ 14) (h15 : f.cFmt ≠ 15) :
    planeGeometry f 0 = { width := f.pWidth, rows := f.pHeight, rowBytes := f.pWidth * f.pBps } := by
  rw [planeGeometry, if_neg h14, if_neg h15]
  rfl

theorem planeGeometry_chroma {f : RegFile} {p : Plane} (h14 : f.cFmt ≠ 14) (h15 : f.cFmt ≠ 15) (hp : p ≠ 0) :
    planeGeometry f p = { width := f.pWidth >>> chromaShiftW f.pSs, rows := f.pHeight >>> chromaShiftH f.pSs,
                          rowBytes := (f.pWidth >>> chromaShiftW f.pSs) * f.pBps } := by
  simp only [planeGeometry, if_neg h14, if_neg h15, if_neg hp]

/-- The shifts of R161 divide by the factors of the class. -/
theorem chromaShift_of_mem {row : Word × Nat × Nat} (h : row ∈ chromaFactors) :
    2 ^ chromaShiftW row.1 = row.2.1 ∧ 2 ^ chromaShiftH row.1 = row.2.2 := by
  revert row
  decide

theorem shift_toNat_eq_div (v : Word) (n : Nat) : (v >>> n).toNat = v.toNat / 2 ^ n := by
  rw [BitVec.toNat_ushiftRight, Nat.shiftRight_eq_div_pow]

/-- The size of a chroma plane (R160, R161). -/
theorem chroma_size {f : RegFile} {p : Plane} (h14 : f.cFmt ≠ 14) (h15 : f.cFmt ≠ 15) (hp : p ≠ 0) {row : Word × Nat × Nat}
    (hrow : row ∈ chromaFactors) (hss : f.pSs = row.1) :
    (planeGeometry f p).width.toNat = f.pWidth.toNat / row.2.1 ∧ (planeGeometry f p).rows.toNat = f.pHeight.toNat / row.2.2 := by
  obtain ⟨hw, hh⟩ := chromaShift_of_mem hrow
  rw [planeGeometry_chroma h14 h15 hp, hss, ← hw, ← hh]
  exact ⟨shift_toNat_eq_div _ _, shift_toNat_eq_div _ _⟩

/-- Rows of planar formats are a sample's bytes times the width, modulo 2^32. -/
theorem rowBytes_planar {f : RegFile} (h14 : f.cFmt ≠ 14) (h15 : f.cFmt ≠ 15) (p : Plane) :
    (planeGeometry f p).rowBytes = (planeGeometry f p).width * f.pBps := by
  by_cases hp : p = 0
  · rw [hp, planeGeometry_luma h14 h15]
  · rw [planeGeometry_chroma h14 h15 hp]

/-- What the pixels of one row of BGRPACK write together: all of the row's bytes that are theirs. -/
theorem length_destBytes_bgrPixelMoves (f : RegFile) (y n : Nat) :
    (destBytes ((List.range n).map (bgrPixelMove f y))).length = min (bgrRowBytes f).toNat (3 * n) := by
  induction n with
  | zero => rw [Nat.mul_zero, Nat.min_zero]; rfl
  | succ n ih =>
    rw [List.range_succ, List.map_append, destBytes, List.flatMap_append, List.length_append, ← destBytes, ih]
    simp only [List.map_cons, List.map_nil, List.flatMap_cons, List.flatMap_nil, List.append_nil,
      length_moveWrites_bgrPixelMove]
    omega

/-- Settles O60: the geometry by the three kinds of format, and one row of each transcoder counted move by move. -/
theorem planeGeometryGivesTheRowLengths : Obligations.PlaneGeometryGivesTheRowLengths := by
  unfold Obligations.PlaneGeometryGivesTheRowLengths
  intro f p y
  refine ⟨fun h => ?_, fun h => ?_, fun h14 h15 => ⟨fun hp => ?_, fun hp row hrow hss => chroma_size h14 h15 hp hrow hss, ?_⟩,
    ⟨?_, ?_⟩, ⟨?_, ?_⟩, ?_, ?_⟩
  · rw [planeGeometry_bgr32 h]
    exact ⟨rfl, rfl, by rw [BitVec.toNat_mul, Nat.mul_comm]; rfl⟩
  · rw [planeGeometry_yuy2 h]
    exact ⟨rfl, rfl, by rw [BitVec.toNat_mul, Nat.mul_comm]; rfl⟩
  · rw [hp, planeGeometry_luma h14 h15]
    exact ⟨rfl, rfl⟩
  · rw [rowBytes_planar h14 h15, BitVec.toNat_mul]
  · rw [length_sourceBytes _ 1 (by simp [blitRowMoves, moveReads])]
    simp [blitRowMoves]
  · rw [length_destBytes _ 1 (by simp [blitRowMoves, moveWrites])]
    simp [blitRowMoves]
  · rw [length_sourceBytes _ 2 (by simp [stackRowMoves, moveReads])]
    simp [stackRowMoves]
  · rw [length_destBytes _ 2 (by simp [stackRowMoves, moveWrites])]
    simp [stackRowMoves]
  · rw [length_sourceBytes _ 3 (by simp [bgrRowMoves, bgrPixelMove, moveReads])]
    simp [bgrRowMoves]
  · rw [bgrRowMoves, length_destBytes_bgrPixelMoves, bgrRowBytes_toNat]
    exact min_eq_left (Nat.mod_le _ _)

end Sys2Proof.Machine
end

section
/-! The answers of the commands out of reset (spec/70_reset_and_hazards.md R261). -/

namespace Sys2Proof.Machine

open Sys2Proof.Claims Sys2Proof.Safety

/-! ### The register an index names, by the table -/

theorem find?_registerTable_eq_none {ra : BitVec 8} (h : registerTable.find? (fun row => row.1 == ra) = none) :
    ∀ r, regIndex r ≠ ra := by
  rintro r rfl
  exact List.find?_eq_none.mp h _ (regIndex_mem_registerTable r) (beq_self_eq_true _)

theorem find?_registerTable_eq_some {ra : BitVec 8} {row : BitVec 8 × Reg}
    (h : registerTable.find? (fun row => row.1 == ra) = some row) : regIndex row.2 = ra := by
  have hra : row.1 = ra := beq_iff_eq.mp (List.find?_some (p := fun row : BitVec 8 × Reg => row.1 == ra) h)
  exact (regIndex_of_mem_registerTable row (List.mem_of_find?_eq_some h)).trans hra

/-- The host's value of a register by its index: CTRL, of index 0, has the one mask (R23). -/
theorem hostValue_eq_by_index (r : Reg) (imm : Word) :
    hostValue r imm = if regIndex r = 0x00 then imm &&& 0x0000FF07 else imm :=
  if_congr ⟨fun h => h ▸ rfl, fun h => regIndex_injective h⟩ rfl rfl

/-! ### The reset state -/

theorem reset_idle : phaseBits State.reset.regs ≠ Phase.ready.code := by decide

theorem reset_phase : inSession State.reset.regs = decide (Phase.uninit = .ready) := rfl

theorem exec_setr_reset_of_writable {r : Reg} (imm : Word) (h : r ∉ readOnlyRegs) :
    exec (.setr (regIndex r) imm) State.reset = .next (answered 0 [] { State.reset with
      regs := State.reset.regs.set r (if regIndex r = 0x00 then imm &&& 0x0000FF07 else imm) }) := by
  rw [← hostValue_eq_by_index]
  exact exec_setr_of_writable imm reset_idle h

theorem exec_rdr_reset (r : Reg) : exec (.rdr (regIndex r)) State.reset = .next (answered 0 [0] State.reset) := by
  rw [exec_rdr_regIndex, show State.reset.regs.get r = 0 from RegFile.get_zero r]

/-- The calls of an OPEN out of reset: SCRIPT_REF, INLINE and OUTIDX are 0. -/
theorem calls_reset (w : OpenAnswers) : ∃ ok calls, w.calls State.reset.regs = .initializeEngine ok :: calls ∧
    (ok = true → ∃ r calls', calls = .evaluate 0 false r :: calls' ∧
      ∀ c, r = .ok c → ∃ nd calls'', calls' = .getOutputNode c 0 nd :: calls'') := by
  cases w with
  | noEngine => exact ⟨false, [], rfl, fun h => absurd h Bool.false_ne_true⟩
  | noScript diag => exact ⟨true, _, rfl, fun _ => ⟨.err diag, [], rfl, fun c hc => by cases hc⟩⟩
  | noNode c => exact ⟨true, _, rfl, fun _ => ⟨.ok c, _, rfl, fun c' hc => by cases hc; exact ⟨none, [], rfl⟩⟩⟩
  | source c nd d => exact ⟨true, _, rfl, fun _ => ⟨.ok c, _, rfl, fun c' hc => by cases hc; exact ⟨some nd, _, rfl⟩⟩⟩

theorem exec_openSession_reset (e : Environment) (hans : e.stallAt = none) :
    ∃ (t : State) (ok : Bool) (calls : List EnvEvent), exec .openSession { State.reset with env := e } = .next t ∧
      t.trace = .initializeEngine ok :: calls ∧ t.mem = State.reset.mem ∧
      (ok = true → ∃ r calls', calls = .evaluate 0 false r :: calls' ∧
        ∀ c, r = .ok c → ∃ nd calls'', calls' = .getOutputNode c 0 nd :: calls'') ∧
      ((t.regs.status = 0x3A ∧ t.responses = [{ code := 0, data := [] }]) ∨
        ∃ err : ErrCode, 1 ≤ err.code.toNat ∧ err.code.toNat ≤ 8 ∧
          t.regs.status = BitVec.ofNat 32 (err.code.toNat * 256 + 6) ∧
          t.responses = [{ code := err.code, data := [] }]) := by
  have hb : BoundaryRegisters false ({ State.reset with env := e } : State).regs := boundaryRegisters_zero false
  have hidle : phaseBits ({ State.reset with env := e } : State).regs ≠ Phase.ready.code := reset_idle
  obtain ⟨w, e', -, hexec⟩ := exec_openSession_eq (s := { State.reset with env := e }) hans hidle
  obtain ⟨ok, calls, hcalls, hshape⟩ := calls_reset w
  cases herr : w.error (({ State.reset with env := e } : State).regs.ctrl.getLsbD 0) with
  | some err =>
    obtain ⟨t, ht, hregs, hmem, htrace, hresp⟩ := OpenAnswers.failed_effect hb hidle herr hexec
    refine ⟨t, ok, calls ++ w.releases, ht, ?_, hmem, fun hok => ?_, .inr ⟨err, err.code_toNat_pos,
      OpenAnswers.error_code_le herr, by rw [hregs]; rfl, hresp⟩⟩
    · rw [htrace]
      exact congrArg (· ++ w.releases) hcalls
    · obtain ⟨r, calls', rfl, hnode⟩ := hshape hok
      refine ⟨r, calls' ++ w.releases, rfl, fun c hc => ?_⟩
      obtain ⟨nd, calls'', rfl⟩ := hnode c hc
      exact ⟨nd, calls'' ++ w.releases, rfl⟩
  | none =>
    obtain ⟨c, nd, d, rfl, hok⟩ := OpenAnswers.exists_source_of_error_eq_none herr
    rw [OpenAnswers.final_ready hb hidle hok] at hexec
    exact ⟨_, ok, calls, hexec, hcalls, rfl, hshape, .inl ⟨rfl, rfl⟩⟩

/-- A transcoder command finds C_FMT 0, or one plane too few (R171). -/
theorem exec_transcoder_reset {i : Instr} (hi : i = .blit ∨ i = .stack ∨ i = .bgrpack ∨ i = .convert) :
    exec i State.reset = .next (answered 14 [] State.reset) := by
  rcases hi with rfl | rfl | rfl | rfl
  · exact exec_of_parameters_refused (i := .blit) reset_phase rfl fun h => absurd ((blitAccepted_iff _).mp h) (by decide)
  · exact exec_of_parameters_refused (i := .stack) reset_phase rfl fun h => absurd ((stackAccepted_iff _).mp h) (by decide)
  · exact exec_of_parameters_refused (i := .bgrpack) reset_phase rfl fun h => absurd ((bgrAccepted_iff _).mp h) (by decide)
  · exact exec_of_parameters_refused (i := .convert) reset_phase rfl fun h => absurd ((convertAccepted_iff _).mp h) (by decide)

/-- Settles O56: each command by what it does when its phase is known, at registers all 0. -/
theorem answersOutOfReset : Obligations.AnswersOutOfReset := by
  unfold Obligations.AnswersOutOfReset
  refine ⟨fun ra imm => ?_, fun ra => ?_, exec_openSession_reset, exec_nop _, exec_close_of_cleared rfl, ?_, ?_, ?_,
    exec_transcoder_reset (by simp), exec_transcoder_reset (by simp), exec_transcoder_reset (by simp),
    exec_transcoder_reset (by simp), exec_getgeom_of_idle reset_idle,
    fun n => exec_of_phase_refused (i := .getframe n) reset_phase rfl⟩
  · cases hfind : registerTable.find? (fun row => row.1 == ra) with
    | none =>
      have hnone := find?_registerTable_eq_none hfind
      exact exec_setr_of_register_refused reset_idle fun ⟨r, hr, _⟩ => hnone r hr
    | some row =>
      obtain rfl := find?_registerTable_eq_some hfind
      by_cases hro : row.2 ∈ readOnlyRegs
      · simp only [if_pos hro]
        exact exec_setr_of_register_refused reset_idle fun h => (registerAccepted_setr_iff row.2 imm).mp h hro
      · simp only [if_neg hro]
        exact exec_setr_reset_of_writable imm hro
  · cases hfind : registerTable.find? (fun row => row.1 == ra) with
    | none => exact exec_rdr_of_unimplemented _ (find?_registerTable_eq_none hfind)
    | some row =>
      obtain rfl := find?_registerTable_eq_some hfind
      exact exec_rdr_reset row.2
  · exact exec_map_of_idle reset_idle
  · exact exec_resolve_of_idle reset_idle
  · exact exec_select_of_idle reset_idle

end Sys2Proof.Machine
end

section
/-! A consistent descriptor (spec/10_state.md R44) with its registers resolved: the checks of the selected transcoder pass
(43_transcoders.md R171) and the geometry keeps its properties (42_geometry_and_select.md sections 1 and 3). Both go by the row of
the format table (41_format_table.md R130, R132) that describes the registers. -/

namespace Sys2Proof.Machine

open Sys2Proof.Claims Sys2Proof.Safety

/-! ### The rows of the format table -/

/-- `C_FMT` of a row (R132). -/
def FormatRow.consumer (r : FormatRow) (native : Bool) : Word := (if native then r.native else r.plain).code

/-- The values a row pins are legal (R28 to R30). -/
theorem FormatRow.legal : ∀ r ∈ producerFormats, (r.planes = 1 ∨ r.planes = 3) ∧
    (∀ v ∈ r.bps.toList, legalBps v = true) ∧ ∀ v ∈ r.ss.toList, legalSs v = true := by
  simp [producerFormats, legalBps, legalSs]

/-- COMPATBGR32 and COMPATYUY2 are the sources of BGR32 and YUY2, and have one plane. -/
theorem FormatRow.packed_source : ∀ r ∈ producerFormats, ∀ native, (r.consumer native = 14 ↔ r.fmt = 0x70) ∧
    (r.consumer native = 15 ↔ r.fmt = 0x80) ∧ (r.fmt = 0x70 ∨ r.fmt = 0x80 → r.planes = 1) := by decide

/-- RGB24 is the one source of BGR24. -/
theorem FormatRow.bgr24_source : ∀ r ∈ producerFormats, ∀ native, r.consumer native = 13 →
    r.planes = 3 ∧ r.bps = some 1 ∧ r.ss = some 0 := by decide

/-- The sources of a planar format of 8 bits per sample have 1 or 2 bytes per sample. -/
theorem FormatRow.narrow_source : ∀ r ∈ producerFormats, ∀ native, r.consumer native ≠ 0 →
    r.consumer native ∉ packedFormats → r.consumer native ∉ wideFormats →
    (r.bps = some 1 ∨ r.bps = some 2) ∧ r.consumer native ∈ [(1 : Word), 3, 4, 5, 6] := by decide

/-! ### The row that describes the registers -/

/-- The descriptor registers hold the values of the row, and legal ones where the row says "any". -/
structure FormatRow.Describes (r : FormatRow) (f : RegFile) : Prop where
  mem : r ∈ producerFormats
  fmt : r.fmt = f.pFmt
  bps : r.bps = some f.pBps ∨ r.bps = none ∧ legalBps f.pBps = true
  planes : f.pPlanes = r.planes
  ss : r.ss = some f.pSs ∨ r.ss = none ∧ legalSs f.pSs = true

/-- A value compared with the row's, or checked where the row has none. -/
theorem some_or_legal_of_match {o : Option Word} {v : Word} {legal : Word → Bool}
    (h : (match o with | none => legal v | some w => v == w) = true) : o = some v ∨ o = none ∧ legal v = true := by
  cases o with
  | none => exact .inr ⟨rfl, h⟩
  | some w => exact .inl (congrArg some (beq_iff_eq.mp h).symm)

theorem exists_row_of_consistent {f : RegFile} (h : descriptorConsistent f = true) : ∃ r : FormatRow, r.Describes f := by
  unfold descriptorConsistent at h
  cases hrow : formatRow f.pFmt with
  | none => rw [hrow] at h; cases h
  | some r =>
    rw [hrow] at h
    simp only [Bool.and_eq_true] at h
    obtain ⟨⟨⟨hbps, hplanes⟩, hss⟩, -⟩ := h
    obtain ⟨hmem, hfmt⟩ := (formatRow_eq_some_iff _ _).mp hrow
    exact ⟨r, hmem, hfmt, some_or_legal_of_match hbps, beq_iff_eq.mp hplanes, some_or_legal_of_match hss⟩

namespace FormatRow.Describes

variable {r : FormatRow} {f : RegFile} (h : r.Describes f)

include h

theorem legal_bps : f.pBps = 1 ∨ f.pBps = 2 ∨ f.pBps = 4 := by
  obtain ⟨-, hlegal, -⟩ := FormatRow.legal r h.mem
  refine (legalBps_iff _).mp ?_
  rcases h.bps with hbps | ⟨-, hbps⟩
  · exact hlegal _ (Option.mem_toList.mpr hbps)
  · exact hbps

theorem legal_ss : f.pSs.toNat ≤ 4 := by
  obtain ⟨-, -, hlegal⟩ := FormatRow.legal r h.mem
  refine (legalSs_iff _).mp ?_
  rcases h.ss with hss | ⟨-, hss⟩
  · exact hlegal _ (Option.mem_toList.mpr hss)
  · exact hss

theorem legal_planes : f.pPlanes = 1 ∨ f.pPlanes = 3 := by
  obtain ⟨hlegal, -, -⟩ := FormatRow.legal r h.mem
  rwa [h.planes]

/-- MAP writes the row's consumer format. -/
theorem cFmt_eq : (mapFormat f.pFmt (ctrlNative f)).code = r.consumer (ctrlNative f) := by
  rw [← h.fmt, mapFormat_of_mem h.mem, FormatRow.consumer]

end FormatRow.Describes

/-! ### The resolved registers -/

/-- What RESOLVE leaves of the mode and the declared sizes when SELECT is done. -/
theorem resolvedFrom_geometry (b : Bool) (f : RegFile) :
    ((resolvedFrom b f).pmode, (resolvedFrom b f).cWidth, (resolvedFrom b f).cHeight) = resolvedGeometry (runMap f) := by
  rw [resolvedFrom, runSelect_eq, runResolve_eq]

theorem pmode_resolvedFrom (b : Bool) (f : RegFile) : (resolvedFrom b f).pmode = (resolvedGeometry (runMap f)).1 :=
  congrArg Prod.fst (resolvedFrom_geometry b f)

theorem transcoder_resolvedFrom (b : Bool) (f : RegFile) : transcoderOf (xselSel (resolvedFrom b f)) =
    some (selectTranscoder (resolvedFrom b f).cFmt (resolvedFrom b f).pmode) :=
  transcoderOf_runSelect b (runResolve (runMap f))

/-- The two modes other than Native are for samples of more than a byte and a format neither packed nor wide (R152). -/
theorem resolvedGeometry_cases (f : RegFile) : resolvedGeometry f = (0, f.pWidth, f.pHeight) ∨
    (f.cFmt ∉ packedFormats ∧ f.pBps ≠ 1 ∧ f.cFmt ∉ wideFormats) ∧
      (resolvedGeometry f = (2, f.pWidth, BitVec.ofNat 32 (2 * f.pHeight.toNat)) ∨
        resolvedGeometry f = (1, BitVec.ofNat 32 (f.pWidth.toNat * f.pBps.toNat), f.pHeight)) := by
  unfold resolvedGeometry
  split_ifs with hpacked hbps hwide hst
  · exact .inl rfl
  · exact .inl rfl
  · exact .inl rfl
  · exact .inr ⟨⟨hpacked, hbps, hwide⟩, .inl rfl⟩
  · exact .inr ⟨⟨hpacked, hbps, hwide⟩, .inr rfl⟩

theorem of_resolvedGeometry_stacked {f : RegFile} (h : (resolvedGeometry f).1 = 2) :
    f.cFmt ∉ packedFormats ∧ f.pBps ≠ 1 ∧ f.cFmt ∉ wideFormats := by
  rcases resolvedGeometry_cases f with hnative | ⟨hconds, -⟩
  · rw [hnative] at h
    exact absurd h (by decide : (0 : Word) ≠ 2)
  · exact hconds

/-! ### The checks pass -/

section Checks

variable {r : FormatRow} {b : Bool} {f : RegFile} (h : r.Describes f)

include h

theorem cFmt_resolvedFrom : (resolvedFrom b f).cFmt = r.consumer (ctrlNative f) := h.cFmt_eq

theorem blitAccepted_of_describes (hsupported : (resolvedFrom b f).cFmt ≠ 0) : blitAccepted (resolvedFrom b f) := by
  obtain ⟨hbgr, hyuy2, hplanes⟩ := FormatRow.packed_source r h.mem (ctrlNative f)
  refine ⟨h.legal_planes, h.legal_bps, h.legal_ss, hsupported, ?_⟩
  rw [cFmt_resolvedFrom h, hbgr, hyuy2]
  exact fun hfmt => h.planes.trans (hplanes hfmt)

theorem stackAccepted_of_describes (hsupported : (resolvedFrom b f).cFmt ≠ 0) (hmode : (resolvedFrom b f).pmode = 2) :
    stackAccepted (resolvedFrom b f) := by
  rw [pmode_resolvedFrom] at hmode
  obtain ⟨hpacked, hbps, hwide⟩ := of_resolvedGeometry_stacked hmode
  have hc : (runMap f).cFmt = r.consumer (ctrlNative f) := h.cFmt_eq
  rw [hc] at hpacked hwide
  rw [cFmt_resolvedFrom h] at hsupported
  obtain ⟨hrow, hmem⟩ := FormatRow.narrow_source r h.mem _ hsupported hpacked hwide
  refine ⟨h.legal_planes, ?_, h.legal_ss, by rwa [cFmt_resolvedFrom h]⟩
  rcases h.bps with hv | ⟨hv, -⟩
  · rw [hv] at hrow
    rcases hrow with h1 | h2
    · exact absurd (Option.some.inj h1) hbps
    · exact Option.some.inj h2
  · rw [hv] at hrow
    rcases hrow with h | h <;> cases h

theorem bgrAccepted_of_describes (hc : (resolvedFrom b f).cFmt = 13) : bgrAccepted (resolvedFrom b f) := by
  obtain ⟨hplanes, hbps, hss⟩ := FormatRow.bgr24_source r h.mem _ (cFmt_resolvedFrom h ▸ hc)
  refine ⟨h.planes.trans hplanes, ?_, ?_, hc⟩
  · rcases h.bps with hv | ⟨hv, -⟩
    · exact Option.some.inj (hv.symm.trans hbps)
    · rw [hv] at hbps; cases hbps
  · rcases h.ss with hv | ⟨hv, -⟩
    · exact Option.some.inj (hv.symm.trans hss)
    · rw [hv] at hss; cases hss

end Checks

/-- Settles O35: the transcoder SELECT names, by the two conditions of R156, and its checks by the row. -/
theorem resolvedParametersPassTheChecks : Obligations.ResolvedParametersPassTheChecks := by
  unfold Obligations.ResolvedParametersPassTheChecks
  intro b f hf hsupported
  obtain ⟨r, hr⟩ := exists_row_of_consistent hf
  have hok : transcoderParamsOk (resolvedFrom b f)
      (selectTranscoder (resolvedFrom b f).cFmt (resolvedFrom b f).pmode) = true := by
    unfold selectTranscoder
    split_ifs with h13 hmode
    · exact (bgrAccepted_iff _).mp (bgrAccepted_of_describes hr h13)
    · exact (stackAccepted_iff _).mp (stackAccepted_of_describes hr hsupported hmode)
    · exact (blitAccepted_iff _).mp (blitAccepted_of_describes hr hsupported)
  exact (convertAccepted_iff _).mpr (convertParamsOk_of_transcoder (transcoder_resolvedFrom b f) hok)

/-! ### The geometry -/

theorem planeGeometry_width_le (f : RegFile) (p : Plane) : (planeGeometry f p).width.toNat ≤ f.pWidth.toNat := by
  unfold planeGeometry
  split_ifs
  · exact Nat.le_refl _
  · exact Nat.le_refl _
  · exact Nat.le_refl _
  · exact (shift_toNat_eq_div _ _).trans_le (Nat.div_le_self _ _)

/-- Plane 0 is the whole frame (R160). -/
theorem planeGeometry_zero (f : RegFile) : (planeGeometry f 0).width = f.pWidth ∧ (planeGeometry f 0).rows = f.pHeight := by
  by_cases h14 : f.cFmt = 14
  · rw [planeGeometry_bgr32 h14]
    exact ⟨rfl, rfl⟩
  · by_cases h15 : f.cFmt = 15
    · rw [planeGeometry_yuy2 h15]
      exact ⟨rfl, rfl⟩
    · rw [planeGeometry_luma h14 h15]
      exact ⟨rfl, rfl⟩

theorem toNat_mul_of_lt {v w : Word} (h : v.toNat * w.toNat < 2 ^ 32) : (v * w).toNat = v.toNat * w.toNat := by
  rw [BitVec.toNat_mul, Nat.mod_eq_of_lt h]

/-- Under `GeomFits` the rows of a planar format are whole samples. -/
theorem rowBytes_of_geomFits {f : RegFile} (h14 : f.cFmt ≠ 14) (h15 : f.cFmt ≠ 15) (hfits : GeomFits f) (p : Plane) :
    (planeGeometry f p).rowBytes.toNat = (planeGeometry f p).width.toNat * f.pBps.toNat := by
  obtain ⟨-, hrow⟩ := hfits
  rw [rowBytes_planar h14 h15]
  exact toNat_mul_of_lt ((Nat.mul_le_mul_right _ (planeGeometry_width_le f p)).trans_lt hrow)

/-- The declared sizes of each mode (R153), under `GeomFits`. -/
theorem resolvedGeometry_sizes {f : RegFile} (hfits : GeomFits f) :
    ((resolvedGeometry f).1 = 0 → (resolvedGeometry f).2.1 = f.pWidth ∧ (resolvedGeometry f).2.2 = f.pHeight) ∧
    ((resolvedGeometry f).1 = 1 →
      (resolvedGeometry f).2.1.toNat = f.pWidth.toNat * f.pBps.toNat ∧ (resolvedGeometry f).2.2 = f.pHeight) ∧
    ((resolvedGeometry f).1 = 2 →
      (resolvedGeometry f).2.1 = f.pWidth ∧ (resolvedGeometry f).2.2.toNat = 2 * f.pHeight.toNat) := by
  obtain ⟨hheight, hrow⟩ := hfits
  have h01 : (0 : Word) ≠ 1 := by decide
  have h02 : (0 : Word) ≠ 2 := by decide
  have h12 : (1 : Word) ≠ 2 := by decide
  rcases resolvedGeometry_cases f with hmode | ⟨-, hmode | hmode⟩
  all_goals rw [hmode]
  · exact ⟨fun _ => ⟨rfl, rfl⟩, fun h => absurd h h01, fun h => absurd h h02⟩
  · exact ⟨fun h => absurd h h02.symm, fun h => absurd h h12.symm, fun _ => ⟨rfl, Nat.mod_eq_of_lt hheight⟩⟩
  · exact ⟨fun h => absurd h h01.symm, fun _ => ⟨Nat.mod_eq_of_lt hrow, rfl⟩, fun h => absurd h h12⟩

/-- A chroma plane of a format with several planes, with the dimensions multiples of the factors, loses nothing (R161). -/
theorem chroma_size_mul {f : RegFile} {p : Plane} (h14 : f.cFmt ≠ 14) (h15 : f.cFmt ≠ 15) (hp : p ≠ 0)
    {row : Word × Nat × Nat} (hrow : row ∈ chromaFactors) (hss : f.pSs = row.1) (hw : f.pWidth.toNat % row.2.1 = 0)
    (hh : f.pHeight.toNat % row.2.2 = 0) :
    (planeGeometry f p).width.toNat * row.2.1 = f.pWidth.toNat ∧ (planeGeometry f p).rows.toNat * row.2.2 = f.pHeight.toNat := by
  obtain ⟨hwidth, hrows⟩ := chroma_size h14 h15 hp hrow hss
  rw [hwidth, hrows]
  exact ⟨Nat.div_mul_cancel (Nat.dvd_of_mod_eq_zero hw), Nat.div_mul_cancel (Nat.dvd_of_mod_eq_zero hh)⟩

/-- Settles O31: the two packed formats have one plane and rows of 4 or 2 bytes for each pixel; all others are planar. -/
theorem geometryRoundTrip : Obligations.GeometryRoundTrip := by
  unfold Obligations.GeometryRoundTrip
  intro b f p hf hfits hp
  obtain ⟨r, hr⟩ := exists_row_of_consistent hf
  obtain ⟨hbgr, hyuy2, hplanes⟩ := FormatRow.packed_source r hr.mem (ctrlNative f)
  rw [← cFmt_resolvedFrom (b := b) hr, hr.fmt] at hbgr hyuy2
  have hpos : 0 < f.pBps.toNat := by rcases hr.legal_bps with h | h | h <;> rw [h] <;> decide
  obtain ⟨hnative, hdoubled, hstacked⟩ := resolvedGeometry_sizes (f := runMap f) hfits
  rw [← resolvedFrom_geometry b f] at hnative hdoubled hstacked
  refine ⟨fun h0 => ?_, fun h70 h80 => ?_, fun h70 h4 => ?_, fun h80 h2 => ?_, hnative, hdoubled, hstacked,
    fun h0 row hrow hss hw hh => ?_⟩
  · rw [h0]
    exact planeGeometry_zero (resolvedFrom b f)
  · have hbytes := rowBytes_of_geomFits (f := resolvedFrom b f) (mt hbgr.mp h70) (mt hyuy2.mp h80) hfits p
    exact ⟨hbytes, by rw [hbytes]; exact (Nat.mul_div_cancel _ hpos).symm⟩
  · rw [planeGeometry_bgr32 (hbgr.mpr h70)]
    exact (toNat_mul_of_lt (w := 4) (by rwa [Nat.mul_comm])).trans (Nat.mul_comm _ _)
  · rw [planeGeometry_yuy2 (hyuy2.mpr h80)]
    exact (toNat_mul_of_lt (w := 2) (by rwa [Nat.mul_comm])).trans (Nat.mul_comm _ _)
  · have hplanar : ¬ (f.pFmt = 0x70 ∨ f.pFmt = 0x80) := by
      intro hpacked
      have hone : f.pPlanes = 1 := hr.planes.trans (hplanes (hr.fmt ▸ hpacked))
      rw [hone] at hp
      exact h0 (Fin.ext (Nat.lt_one_iff.mp hp))
    rw [not_or] at hplanar
    exact chroma_size_mul (f := resolvedFrom b f) (mt hbgr.mp hplanar.1) (mt hyuy2.mp hplanar.2) h0 hrow hss hw hh

end Sys2Proof.Machine
end

section
/-! The transcoder commands (spec/43_transcoders.md): how they end once their phase and parameters are accepted, what each leaves
in memory, and that CONVERT is the command of the selected transcoder. -/

namespace Sys2Proof.Machine

open Sys2Proof.Claims Sys2Proof.Safety

/-! ### How a transcoder command ends -/

/-- The commands that run a transcoder. -/
def transcoderCommands : List Instr := [.blit, .stack, .bgrpack, .convert]

/-- With the phase and the parameters accepted the command runs its moves. -/
theorem exec_of_accepted {i : Instr} {s : State} (hi : i ∈ transcoderCommands) (hidle : phaseBits s.regs ≠ Phase.ready.code)
    (hok : parametersAccepted s.regs i) : exec i s = .next (endTransfer (transfer (movesRun s.regs i) s)) := by
  have hout : inSession s.regs = false := inSession_of_phaseBits_ne hidle
  simp only [transcoderCommands, List.mem_cons, List.not_mem_nil, or_false] at hi
  rcases hi with rfl | rfl | rfl | rfl
  · rw [exec, execBlit, whenIdle_of_not_inSession hout, if_pos ((blitAccepted_iff _).mp hok)]
    rfl
  · rw [exec, execStack, whenIdle_of_not_inSession hout, if_pos ((stackAccepted_iff _).mp hok)]
    rfl
  · rw [exec, execBgrpack, whenIdle_of_not_inSession hout, if_pos ((bgrAccepted_iff _).mp hok)]
    rfl
  · rw [exec_convert_eq, whenIdle_of_not_inSession hout, if_pos ((convertAccepted_iff _).mp hok)]

theorem endTransfer_mem (r : Option ErrCode × State) : (endTransfer r).mem = r.2.mem := by
  obtain ⟨_ | e, s⟩ := r <;> rfl

theorem endTransfer_env (r : Option ErrCode × State) : (endTransfer r).env = r.2.env := by
  obtain ⟨_ | e, s⟩ := r <;> rfl

/-- Moves change memory and the counter of free values alone. -/
theorem transfer_state (ms : List Move) (s : State) :
    ∃ m k, (transfer ms s).2 = { s with mem := m, freeIndex := k } := by
  unfold transfer
  split
  · exact ⟨_, _, rfl⟩
  · split <;> exact ⟨_, _, rfl⟩

/-- What the moves answer is decided by the accesses alone (60_exceptions.md R233). -/
theorem endTransfer_transfer (ms : List Move) (s : State) :
    ∃ m k, (AllAdmitted s.platform ms → endTransfer (transfer ms s) = answered 0 [] { s with mem := m, freeIndex := k }) ∧
      (¬ AllAdmitted s.platform ms → endTransfer (transfer ms s) = answered 11 [] { s with mem := m, freeIndex := k }) := by
  obtain ⟨m, k, hstate⟩ := transfer_state ms s
  have hfst := transfer_fst ms s
  generalize transfer ms s = r at hstate hfst
  obtain ⟨o, t⟩ := r
  obtain rfl : t = { s with mem := m, freeIndex := k } := hstate
  refine ⟨m, k, fun h => ?_, fun h => ?_⟩
  · obtain rfl : o = none := hfst.trans (if_pos h)
    rfl
  · obtain rfl : o = some .mem := hfst.trans (if_neg h)
    rfl

/-- With nothing refused and the premises of R68 the moves run through. -/
theorem transfer_of_disjoint {ms : List Move} {s : State} (hadmit : AllAdmitted s.platform ms) (hdisj : PlanesDisjoint ms) :
    ∃ m, runMoves s.platform s.mem ms = some m ∧ transfer ms s = (none, { s with mem := m }) := by
  obtain ⟨m, hm⟩ := (runMoves_isSome_iff s.platform s.mem ms).mpr hadmit
  obtain ⟨hrows, hplanes⟩ := hdisj
  refine ⟨m, hm, ?_⟩
  unfold transfer
  rw [hm, hrows, hplanes]
  rfl

theorem exec_completes {i : Instr} {s : State} (hi : i ∈ transcoderCommands) (hidle : phaseBits s.regs ≠ Phase.ready.code)
    (hok : parametersAccepted s.regs i) (hadmit : AllAdmitted s.platform (movesRun s.regs i))
    (hdisj : PlanesDisjoint (movesRun s.regs i)) :
    ∃ m, runMoves s.platform s.mem (movesRun s.regs i) = some m ∧ exec i s = .next (answered 0 [] { s with mem := m }) := by
  obtain ⟨m, hrun, htransfer⟩ := transfer_of_disjoint hadmit hdisj
  refine ⟨m, hrun, ?_⟩
  rw [exec_of_accepted hi hidle hok, htransfer]
  rfl

/-- What completed moves leave under the premises of R68: every store of every move, and nothing else. -/
theorem runMoves_of_disjoint {pl : Platform} {m m' : Memory} {ms : List Move} (hm : m.wf) (hdisj : PlanesDisjoint ms)
    (h : runMoves pl m ms = some m') :
    (∀ mv ∈ ms, ∀ c ∈ moveStores m mv, memByte m' c.1 = c.2) ∧
      ∀ a, (∀ mv ∈ ms, a ∉ moveWrites mv) → memByte m' a = memByte m a := by
  obtain ⟨-, hframe, hstores⟩ := runMoves_spec pl m m' ms hm h
  obtain ⟨hrows, hplanes⟩ := hdisj
  refine ⟨hstores (of_decide_eq_true hrows) fun a ha hsrc => ?_, fun a ha => hframe a fun hdst => ?_⟩
  · have hnot := List.all_eq_true.mp hplanes a ha
    rw [List.contains_iff_mem.mpr hsrc] at hnot
    cases hnot
  · obtain ⟨mv, hmv, hw⟩ := List.mem_flatMap.mp hdst
    exact ha mv hmv hw

/-! ### CONVERT -/

/-- The body of the command of one transcoder. -/
def transcoderBody (tr : Transcoder) (s : State) : State :=
  if transcoderParamsOk s.regs tr then endTransfer (transfer (transcoderMoves s.regs tr) s) else raise .param s

theorem exec_blit_eq (s : State) : exec .blit s = whenIdle s (transcoderBody .blit) := rfl

theorem exec_stack_eq (s : State) : exec .stack s = whenIdle s (transcoderBody .stack) := rfl

theorem exec_bgrpack_eq (s : State) : exec .bgrpack s = whenIdle s (transcoderBody .bgrpack) := rfl

theorem exec_convert_of_transcoder {s : State} {tr : Transcoder} (hsel : transcoderOf (xselSel s.regs) = some tr) :
    exec .convert s = whenIdle s (transcoderBody tr) := by
  have hbody : endTransfer (convertBody s) = transcoderBody tr s := by
    unfold transcoderBody
    split
    next hok => rw [convertBody_of_transcoder hsel hok]
    next hok =>
      rw [convertBody_of_refused (by rw [convertParamsOk, hsel]; exact Bool.eq_false_iff.mpr hok)]
      rfl
  rw [exec, execConvert, whenIdle, whenIdle, hbody]

theorem transcoderOf_of_extract {f : RegFile} {v : BitVec 2} (h : f.xsel.extractLsb' 0 2 = v) :
    transcoderOf (xselSel f) = transcoderOf v := by rw [xselSel, bits, h]

/-- Settles O39: the transcoder XSEL.SEL names, or none for 3; the last claim is how every transcoder command completes. -/
theorem convertRunsTheSelectedTranscoder : Obligations.ConvertRunsTheSelectedTranscoder := by
  unfold Obligations.ConvertRunsTheSelectedTranscoder
  refine ⟨fun s h => ?_, fun s h => ?_, fun s h => ?_, fun s h hidle => ?_, fun s hidle hok hadmit hdisj => ?_⟩
  · exact (exec_convert_of_transcoder (transcoderOf_of_extract h)).trans (exec_blit_eq s).symm
  · exact (exec_convert_of_transcoder (transcoderOf_of_extract h)).trans (exec_stack_eq s).symm
  · exact (exec_convert_of_transcoder (transcoderOf_of_extract h)).trans (exec_bgrpack_eq s).symm
  · have hnone : convertParamsOk s.regs = false := by
      rw [convertParamsOk, transcoderOf_of_extract h]
      rfl
    exact exec_of_parameters_refused (i := .convert) (p := .uninit) (inSession_of_phaseBits_ne hidle) rfl
      fun haccepted => Bool.eq_false_iff.mp hnone ((convertAccepted_iff _).mp haccepted)
  · exact exec_completes (by simp [transcoderCommands]) hidle ((convertAccepted_iff _).mpr hok) hadmit hdisj

/-! ### All four commands -/

/-- Settles O40: refusals change nothing; the moves change their destination bytes. -/
theorem transcodersTouchOnlyTheirDestination : Obligations.TranscodersTouchOnlyTheirDestination := by
  unfold Obligations.TranscodersTouchOnlyTheirDestination
  intro i s t hi hmem h
  cases effect_of_exec h with
  | answers => exact ⟨rfl, rfl, rfl, fun _ _ => rfl⟩
  | registers f _ hf => fin_cases hi <;> cases hf
  | transfers =>
    refine ⟨endTransfer_transfer_regs _ s, endTransfer_trace _ s, ?_, fun a ha => ?_⟩
    · rw [endTransfer_env, transfer_env]
    · rw [endTransfer_mem]
      exact (transfer_spec (movesRun s.regs i) s hmem).2.1 a ha
  | opens hi' | closes hi' | fetches _ hi' => subst hi'; simp at hi

/-- Settles O41: the moves' accesses decide the answer, overlap or not. -/
theorem refusedAccessAnswersEMem : Obligations.RefusedAccessAnswersEMem := by
  unfold Obligations.RefusedAccessAnswersEMem
  intro i s hi hidle hok
  obtain ⟨m, k, hadmitted, hrefused⟩ := endTransfer_transfer (movesRun s.regs i) s
  rw [exec_of_accepted hi hidle hok]
  exact ⟨fun h => ⟨m, k, congrArg _ (hrefused h)⟩, fun h => ⟨m, k, congrArg _ (hadmitted h)⟩⟩

/-! ### The bytes of each transcoder -/

theorem blitDst_eq (f : RegFile) (p : Plane) (y k : Nat) : blitDst f p y k =
    byteAddr (rowAddr (dstPlane f p) (blitRow (xselFlip f) (planeGeometry f p).rows.toNat y)) k := by
  rw [blitDst, blitRow, xselFlip_eq_getLsbD]

/-- The moves of BLIT by the bytes it copies. -/
theorem mem_blitMoves_iff (f : RegFile) (mv : Move) :
    mv ∈ blitMoves f ↔ ∃ p y k, InBlit f p y k ∧ mv = .copy (blitSrc f p y k) (blitDst f p y k) := by
  simp only [mem_blitMoves, InBlit, blitDst_eq, blitSrc, and_assoc]

/-- Settles O36: each byte is the store of its move. -/
theorem blitCopiesEveryPlane : Obligations.BlitCopiesEveryPlane := by
  unfold Obligations.BlitCopiesEveryPlane
  intro s hmem hidle hok hadmit hdisj
  obtain ⟨m, hrun, hexec⟩ := exec_completes (i := .blit) (by simp [transcoderCommands]) hidle
    ((blitAccepted_iff _).mpr hok) hadmit hdisj
  obtain ⟨hstores, hframe⟩ := runMoves_of_disjoint hmem hdisj hrun
  refine ⟨m, hexec, fun p y k hin => ?_, fun a ha => hframe a fun mv hmv hw => ?_⟩
  · exact hstores _ ((mem_blitMoves_iff _ _).mpr ⟨p, y, k, hin, rfl⟩) _ (List.mem_singleton_self _)
  · obtain ⟨p, y, k, hin, rfl⟩ := (mem_blitMoves_iff _ _).mp hmv
    exact ha p y k hin (List.mem_singleton.mp hw)

/-- The moves of STACK by the samples it splits. -/
theorem mem_stackMoves_iff (f : RegFile) (mv : Move) : mv ∈ stackMoves f ↔
    ∃ p y i, InStack f p y i ∧ mv = .split (stackSrc f p y i) (stackTop f p y i) (stackBottom f p y i) := by
  simp only [mem_stackMoves, InStack, stackSrc, stackTop, stackBottom, and_assoc]

/-- Settles O37: the two bytes of each sample are the stores of its move. -/
theorem stackSplitsEverySample : Obligations.StackSplitsEverySample := by
  unfold Obligations.StackSplitsEverySample
  intro s hmem hidle hok hadmit hdisj
  obtain ⟨m, hrun, hexec⟩ := exec_completes (i := .stack) (by simp [transcoderCommands]) hidle
    ((stackAccepted_iff _).mpr hok) hadmit hdisj
  obtain ⟨hstores, hframe⟩ := runMoves_of_disjoint hmem hdisj hrun
  refine ⟨m, hexec, fun p y i hin => ?_, fun a ha => hframe a fun mv hmv hw => ?_⟩
  · have hbytes := hstores _ ((mem_stackMoves_iff _ _).mpr ⟨p, y, i, hin, rfl⟩)
    have htop := hbytes (stackTop s.regs p y i, _) (List.mem_cons_self ..)
    have hbottom := hbytes (stackBottom s.regs p y i, _) (List.mem_cons_of_mem _ (List.mem_singleton_self _))
    refine ⟨htop, hbottom, ?_⟩
    rw [htop, hbottom, unstack]
  · obtain ⟨p, y, i, hin, rfl⟩ := (mem_stackMoves_iff _ _).mp hmv
    obtain ⟨htop, hbottom⟩ := ha p y i hin
    rcases List.mem_cons.mp hw with h | h
    · exact htop h
    · exact hbottom (List.mem_singleton.mp h)

/-- A pixel of BGRPACK by its bytes: as many of the three as the row has room for. -/
theorem moveStores_bgrPixelMove (m : Memory) (f : RegFile) (y x : Nat) :
    moveStores m (bgrPixelMove f y x) = (List.range (min (3 * f.pWidth.toNat % 2 ^ 32 - 3 * x) 3)).map fun j =>
      (bgrDst f y x j, memByte m (bgrSrc f (bgrChannel j) y x)) := by
  have hfirst : byteAddr (rowAddr (dstPlane f 0) (f.pHeight.toNat - 1 - y)) (3 * x) = bgrDst f y x 0 :=
    (BitVec.add_zero _).symm
  rw [bgrPixelMove, moveStores, bgrRowBytes_toNat, ← List.take_range, List.map_take]
  exact congrArg (fun a => List.take _ ((a, _) :: _)) hfirst

theorem mem_moveStores_bgrPixelMove (m : Memory) (f : RegFile) (y x : Nat) (c : Word × Byte) :
    c ∈ moveStores m (bgrPixelMove f y x) ↔ ∃ j, (j < 3 ∧ 3 * x + j < 3 * f.pWidth.toNat % 2 ^ 32) ∧
      (bgrDst f y x j, memByte m (bgrSrc f (bgrChannel j) y x)) = c := by
  have hroom (j : Nat) : j < min (3 * f.pWidth.toNat % 2 ^ 32 - 3 * x) 3 ↔
      j < 3 ∧ 3 * x + j < 3 * f.pWidth.toNat % 2 ^ 32 := by omega
  simp only [moveStores_bgrPixelMove, List.mem_map, List.mem_range, hroom]

/-- Settles O38: each byte is a store of its pixel's move. -/
theorem bgrpackInterleavesReversedRows : Obligations.BgrpackInterleavesReversedRows := by
  unfold Obligations.BgrpackInterleavesReversedRows
  intro s hmem hidle hok hadmit hdisj
  obtain ⟨m, hrun, hexec⟩ := exec_completes (i := .bgrpack) (by simp [transcoderCommands]) hidle
    ((bgrAccepted_iff _).mpr hok) hadmit hdisj
  obtain ⟨hstores, hframe⟩ := runMoves_of_disjoint hmem hdisj hrun
  refine ⟨m, hexec, fun y x j hin => ?_, fun a ha => hframe a fun mv hmv hw => ?_⟩
  · obtain ⟨hy, hx, hj, hroom⟩ := hin
    exact hstores _ ((mem_bgrMoves _ _).mpr ⟨y, x, hy, hx, rfl⟩) _
      ((mem_moveStores_bgrPixelMove _ _ _ _ _).mpr ⟨j, ⟨hj, hroom⟩, rfl⟩)
  · obtain ⟨y, x, hy, hx, rfl⟩ := (mem_bgrMoves _ _).mp hmv
    rw [← moveStores_addresses s.mem] at hw
    obtain ⟨c, hc, rfl⟩ := List.mem_map.mp hw
    obtain ⟨j, ⟨hj, hroom⟩, rfl⟩ := (mem_moveStores_bgrPixelMove _ _ _ _ _).mp hc
    exact ha y x j ⟨hy, hx, hj, hroom⟩ rfl

end Sys2Proof.Machine
end
